-- ==== Sys2Proof/Word.lean ====
section
/-! DEFINITION. The words of the block: one 8-bit byte, one 4-bit nibble, one 32-bit operation word (R90),
one 16-bit response (R17) and one 7-bit device address (R8). All values are unsigned (R12). -/

namespace Sys2Proof

/-- One expander byte, one controller byte, one 8-bit operand field. -/
abbrev Byte := BitVec 8

/-- "4-bit half of a byte" (00_scope.md, glossary). -/
abbrev Nibble := BitVec 4

/-- One operation word or extension word of the operation stream (R90). -/
abbrev Word := BitVec 32

/-- One entry of the response list (R17). -/
abbrev Response := BitVec 16

/-- One I2C device address (R8, R60). -/
abbrev Address := BitVec 7

end Sys2Proof
end

