-- ==== Sys2Proof/Machine/Flags.lean ====
section
/-! DEFINITION. The flag bits of the three controller shadow registers and their hard-wired bits (R33, R35,
R36), and the one bit operation of a toggle (R140). The block has no condition flags (R43). -/

namespace Sys2Proof.Machine

/-- `D` (display on), bit 2 of `x[CONTROL]` (R35). -/
def flagDisplay : Byte := 0x04#8

/-- `C` (cursor on), bit 1 of `x[CONTROL]` (R35). -/
def flagCursor : Byte := 0x02#8

/-- `B` (blink on), bit 0 of `x[CONTROL]` (R35). -/
def flagBlink : Byte := 0x01#8

/-- `ID` (left-to-right), bit 1 of `x[MODE]` (R36, D7). -/
def flagLeftToRight : Byte := 0x02#8

/-- `S` (autoscroll on), bit 0 of `x[MODE]` (R36, D7). -/
def flagAutoscroll : Byte := 0x01#8

/-- The bits of `x[FUNCTION]` that are not hard-wired 0: `N` and `F` (R33). -/
def functionBits : Byte := 0x0C#8

/-- The bits of `x[CONTROL]` that are not hard-wired 0 (R35). -/
def controlBits : Byte := 0x07#8

/-- The bits of `x[MODE]` that are not hard-wired 0 (R36). -/
def modeBits : Byte := 0x03#8

/-- `x[CONTROL]` after BEGIN: display on, cursor off, blink off (R170). -/
def controlAfterBegin : Byte := 0x04#8

/-- `x[MODE]` after BEGIN: left-to-right, autoscroll off (R170). -/
def modeAfterBegin : Byte := 0x02#8

/-- `set ? (old | BIT) : (old & ~BIT)` in 8 bits (R140). -/
def toggleBits (bit : Byte) (set : Bool) (old : Byte) : Byte := if set then old ||| bit else old &&& ~~~bit

end Sys2Proof.Machine
end

