-- ==== Sys2Proof/Syntax.lean ====
section
/-! DEFINITION. The operations of the block, whole: one constructor of Instr per row of the opcode table (R93),
and the names the encodings use: opcodes, formats and the mode bit. -/

namespace Sys2Proof

/-- "the mode bit (COMMAND=0, DATA=1)" (R19). -/
inductive SendMode where
  | command
  | data
deriving DecidableEq, Repr

/-- One operation with its operands as the word holds them, unclamped (R91). `createChar` carries the bytes
of its extension words, so its field `n` is the list's length (R92). -/
inductive Instr where
  | send (value : Byte) (mode : SendMode)
  | display
  | noDisplay
  | cursor
  | noCursor
  | blink
  | noBlink
  | leftToRight
  | rightToLeft
  | autoscroll
  | noAutoscroll
  | setCursor (col row : Byte)
  | home
  | clear
  | begin
  | setBacklight (v : Bool)
  | getBacklight
  | printChar (code : Byte)
  | createChar (location : Byte) (charmap : List Byte)
  | scrollDisplayLeft
  | scrollDisplayRight
  | getCursor
  | getFunction
  | getControl
  | getMode
deriving DecidableEq, Repr

/-- The assigned opcodes of R93, in its order. -/
inductive Opcode where
  | send | display | noDisplay | cursor | noCursor | blink | noBlink
  | leftToRight | rightToLeft | autoscroll | noAutoscroll
  | setCursor | home | clear | begin
  | setBacklight | getBacklight
  | printChar | createChar | scrollDisplayLeft | scrollDisplayRight
  | getCursor | getFunction | getControl | getMode
deriving DecidableEq, Repr

/-- The seven word formats of R90; `E` is the extension word of CREATE_CHAR. -/
inductive Format where
  | Z | S | XY | L | D | G | E
deriving DecidableEq, Repr

/-- The opcode an operation is encoded with (R93). -/
def Instr.opcode : Instr → Opcode
  | .send _ _ => .send
  | .display => .display
  | .noDisplay => .noDisplay
  | .cursor => .cursor
  | .noCursor => .noCursor
  | .blink => .blink
  | .noBlink => .noBlink
  | .leftToRight => .leftToRight
  | .rightToLeft => .rightToLeft
  | .autoscroll => .autoscroll
  | .noAutoscroll => .noAutoscroll
  | .setCursor _ _ => .setCursor
  | .home => .home
  | .clear => .clear
  | .begin => .begin
  | .setBacklight _ => .setBacklight
  | .getBacklight => .getBacklight
  | .printChar _ => .printChar
  | .createChar _ _ => .createChar
  | .scrollDisplayLeft => .scrollDisplayLeft
  | .scrollDisplayRight => .scrollDisplayRight
  | .getCursor => .getCursor
  | .getFunction => .getFunction
  | .getControl => .getControl
  | .getMode => .getMode

/-- Length in words: one, and `1 + n` for CREATE_CHAR (R92). -/
def Instr.length : Instr → Nat
  | .createChar _ charmap => 1 + charmap.length
  | _ => 1

end Sys2Proof
end

