-- ==== Sys2Proof/WellFormed.lean ====
section
/-! DEFINITION. Which terms of Instr have an encoding. The operand types already hold every bound but one:
CREATE_CHAR's `n` is an 8-bit field (R92), and "more than 255 charmap entries ... is refused by the assembler;
it has no encoding" (R99). -/

namespace Sys2Proof

/-- The check, as a Bool. -/
def Instr.wellFormed : Instr → Bool
  | .createChar _ charmap => charmap.length ≤ 255
  | _ => true

/-- The check, as a decidable proposition. -/
abbrev Instr.WellFormed (i : Instr) : Prop := i.wellFormed = true

end Sys2Proof
end

