-- ==== Sys2Proof/Decode.lean ====
section
/-! DEFINITION. Decoding of the operation stream (R90 to R98), total on every list of words and rejecting by
name, and after it the encoder, written from the same tables. -/

namespace Sys2Proof

/-- The opcode byte of each operation (R93). -/
def Opcode.code : Opcode → Byte
  | .send => 0x01
  | .display => 0x10
  | .noDisplay => 0x11
  | .cursor => 0x12
  | .noCursor => 0x13
  | .blink => 0x14
  | .noBlink => 0x15
  | .leftToRight => 0x16
  | .rightToLeft => 0x17
  | .autoscroll => 0x18
  | .noAutoscroll => 0x19
  | .setCursor => 0x1A
  | .home => 0x1B
  | .clear => 0x1C
  | .begin => 0x20
  | .setBacklight => 0x30
  | .getBacklight => 0x31
  | .printChar => 0x40
  | .createChar => 0x41
  | .scrollDisplayLeft => 0x42
  | .scrollDisplayRight => 0x43
  | .getCursor => 0x50
  | .getFunction => 0x51
  | .getControl => 0x52
  | .getMode => 0x53

/-- Every assigned opcode, in R93's order. -/
def allOpcodes : List Opcode :=
  [.send, .display, .noDisplay, .cursor, .noCursor, .blink, .noBlink, .leftToRight, .rightToLeft,
   .autoscroll, .noAutoscroll, .setCursor, .home, .clear] ++
  [.begin, .setBacklight, .getBacklight, .printChar, .createChar, .scrollDisplayLeft,
   .scrollDisplayRight, .getCursor, .getFunction, .getControl, .getMode]

/-- The operation assigned to an opcode byte; none for the unassigned opcodes of R95. -/
def Opcode.ofCode? (c : Byte) : Option Opcode := allOpcodes.find? fun op => op.code == c

/-- The format of each operation (R93). -/
def Opcode.format : Opcode → Format
  | .send => .S
  | .setCursor => .XY
  | .setBacklight => .L
  | .printChar => .D
  | .createChar => .G
  | .display | .noDisplay | .cursor | .noCursor | .blink | .noBlink => .Z
  | .leftToRight | .rightToLeft | .autoscroll | .noAutoscroll => .Z
  | .home | .clear | .begin | .getBacklight => .Z
  | .scrollDisplayLeft | .scrollDisplayRight => .Z
  | .getCursor | .getFunction | .getControl | .getMode => .Z

/-- `OPC = w[31:24]` (R90). -/
def opcField (w : Word) : Byte := w.extractLsb' 24 8

/-- Field `A = w[23:16]` (R90). -/
def fieldA (w : Word) : Byte := w.extractLsb' 16 8

/-- Field `B = w[15:8]` (R90). -/
def fieldB (w : Word) : Byte := w.extractLsb' 8 8

/-- Field `C = w[7:0]` (R90). -/
def fieldC (w : Word) : Byte := w.extractLsb' 0 8

/-- "Fields shown as constants are reserved and must hold the constant" (R90, R94): the constants of a
format's fields `A`, `B` and `C`. -/
def Format.reservedOk : Format → Byte → Byte → Byte → Bool
  | .Z, a, b, c => a == 0 && b == 0 && c == 0
  | .S, _, b, c => b &&& 0xFE#8 == 0 && c == 0
  | .XY, _, _, c => c == 0
  | .L, a, b, c => a &&& 0xFE#8 == 0 && b == 0 && c == 0
  | .D, _, b, c => b == 0 && c == 0
  | .G, _, _, c => c == 0
  | .E, a, b, _ => a == 0 && b == 0

/-- The operation a first word stands for: an assigned opcode whose reserved fields hold their constants
(R93, R94, R95). -/
def decodeOpcode (w : Word) : Option Opcode :=
  match Opcode.ofCode? (opcField w) with
  | none => none
  | some op => if op.format.reservedOk (fieldA w) (fieldB w) (fieldC w) then some op else none

/-- Format `E` (R90, R96): "legal ... only with bits 31:8 zero". -/
def extensionOk (w : Word) : Bool := opcField w == 0 && Format.E.reservedOk (fieldA w) (fieldB w) (fieldC w)

/-- The bytes of the extension words, or the first word, in word order, that is not of format `E` (R96, R98). -/
def decodeExtension : List Word → Except Word (List Byte)
  | [] => .ok []
  | w :: ws =>
    if extensionOk w then
      match decodeExtension ws with
      | .ok bs => .ok (fieldC w :: bs)
      | .error e => .error e
    else .error w

/-- "A decoder tells the length from the opcode and, for opcode 0x41, from field B" (R92). -/
def wordLength (w : Word) : Nat := if opcField w = 0x41#8 then 1 + (fieldB w).toNat else 1

/-- Bit 0 of a field as the mode: COMMAND (0) or DATA (1) (R91). -/
def modeOfBit (b : Bool) : SendMode := if b then .data else .command

/-- The mode bit's value (R19). -/
def SendMode.bit : SendMode → Bool
  | .command => false
  | .data => true

/-- What decoding the words at the program counter gives. -/
inductive DecodeResult where
  /-- An operation, and the words after it. -/
  | decoded (i : Instr) (rest : List Word)
  /-- `IllegalOp(w)` with the offending word (R94, R95, R96). -/
  | illegal (w : Word)
  /-- CREATE_CHAR announces more extension words than remain (R97). -/
  | short
  /-- There is no word at all. -/
  | noWord
deriving DecidableEq, Repr

/-- R98, in the order of checks of R218: the first word, a short CREATE_CHAR, then its extension words. -/
def decode : List Word → DecodeResult
  | [] => .noWord
  | w :: ws =>
    match decodeOpcode w with
    | none => .illegal w
    | some .send => .decoded (.send (fieldA w) (modeOfBit ((fieldB w).getLsbD 0))) ws
    | some .display => .decoded .display ws
    | some .noDisplay => .decoded .noDisplay ws
    | some .cursor => .decoded .cursor ws
    | some .noCursor => .decoded .noCursor ws
    | some .blink => .decoded .blink ws
    | some .noBlink => .decoded .noBlink ws
    | some .leftToRight => .decoded .leftToRight ws
    | some .rightToLeft => .decoded .rightToLeft ws
    | some .autoscroll => .decoded .autoscroll ws
    | some .noAutoscroll => .decoded .noAutoscroll ws
    | some .setCursor => .decoded (.setCursor (fieldA w) (fieldB w)) ws
    | some .home => .decoded .home ws
    | some .clear => .decoded .clear ws
    | some .begin => .decoded .begin ws
    | some .setBacklight => .decoded (.setBacklight ((fieldA w).getLsbD 0)) ws
    | some .getBacklight => .decoded .getBacklight ws
    | some .printChar => .decoded (.printChar (fieldA w)) ws
    | some .createChar =>
      let n := (fieldB w).toNat
      if ws.length < n then .short
      else
        match decodeExtension (ws.take n) with
        | .error e => .illegal e
        | .ok bytes => .decoded (.createChar (fieldA w) bytes) (ws.drop n)
    | some .scrollDisplayLeft => .decoded .scrollDisplayLeft ws
    | some .scrollDisplayRight => .decoded .scrollDisplayRight ws
    | some .getCursor => .decoded .getCursor ws
    | some .getFunction => .decoded .getFunction ws
    | some .getControl => .decoded .getControl ws
    | some .getMode => .decoded .getMode ws

/-! ## The encoder -/

/-- A word from its four fields, the opcode in the most significant byte (R90). -/
def packWord (opc a b c : Byte) : Word := opc ++ a ++ b ++ c

/-- A field that holds one bit in its bit 0 (formats `S` and `L` of R90). -/
def bitField (b : Bool) : Byte := (BitVec.ofBool b).setWidth 8

/-- Fields `A`, `B` and `C` of an operation's first word (R90, R93). -/
def Instr.fields : Instr → Byte × Byte × Byte
  | .send value mode => (value, bitField mode.bit, 0)
  | .setCursor col row => (col, row, 0)
  | .setBacklight v => (bitField v, 0, 0)
  | .printChar code => (code, 0, 0)
  | .createChar location charmap => (location, BitVec.ofNat 8 charmap.length, 0)
  | .display | .noDisplay | .cursor | .noCursor | .blink | .noBlink => (0, 0, 0)
  | .leftToRight | .rightToLeft | .autoscroll | .noAutoscroll => (0, 0, 0)
  | .home | .clear | .begin | .getBacklight => (0, 0, 0)
  | .scrollDisplayLeft | .scrollDisplayRight => (0, 0, 0)
  | .getCursor | .getFunction | .getControl | .getMode => (0, 0, 0)

/-- The bytes of the extension words; only CREATE_CHAR has any (R92). -/
def Instr.extension : Instr → List Byte
  | .createChar _ charmap => charmap
  | _ => []

/-- An extension word `0x000000 : byte` (R90). -/
def extensionWord (b : Byte) : Word := packWord 0 0 0 b

/-- The words of an operation. -/
def encode (i : Instr) : List Word :=
  packWord i.opcode.code i.fields.1 i.fields.2.1 i.fields.2.2 :: i.extension.map extensionWord

/-! ## The decoder on a number, as the opcode table numbers its bits -/

/-- The words of the one operation whose bits are `w`: bit 0 is the least significant bit of the first word, a later
word's bits count on from it, and every bit from `nbits` up is 0. As many words as the first one announces (R92). -/
def tableStream (nbits w : Nat) : List Word :=
  let bits := w % 2 ^ nbits
  let first := BitVec.ofNat 32 bits
  first :: (List.range (wordLength first - 1)).map fun k => BitVec.ofNat 32 (bits >>> (32 * (k + 1)))

/-- The operation the decoder reads from those bits; none where it refuses. -/
def decodeTableWord (nbits w : Nat) : Option Instr :=
  match decode (tableStream nbits w) with
  | .decoded i _ => some i
  | .illegal _ => none
  | .short => none
  | .noWord => none

end Sys2Proof
end

