-- ==== Sys2Proof/Config.lean ====
section
/-! DEFINITION. What is fixed for one block: its display configuration (R8), its output-encoding, timing and
behaviour parameters (R9, R10, R11), and the values the spec leaves open (R66, D28). A block's configuration
and parameters stand in its State, so a statement about every state is about every configuration. -/

namespace Sys2Proof

/-- The legal row counts (R8); any other number is refused at construction (R216). -/
inductive RowCount where
  | one
  | two
  | four
deriving DecidableEq, Repr

/-- `ROWS` as a number (R8). -/
def RowCount.toNat : RowCount → Nat
  | .one => 1
  | .two => 2
  | .four => 4

/-- `CHARSIZE` (R8): 0 is 5x8 dots, 1 is 5x10 dots. -/
inductive CharSize where
  | dots5x8
  | dots5x10
deriving DecidableEq, Repr

/-- The configuration, "immutable after construction" (R8, R30). `bus` is the handle the host passed (`none`:
omitted, so the driver makes a default one, R243) and `i2cFreqMax` the bus clock in Hz (`none`: not given). No
rule reads either (D28). -/
structure DisplayConfig where
  addr : Address
  cols : BitVec 8
  rows : RowCount
  charsize : CharSize
  bus : Option Nat
  i2cFreqMax : Option Nat
deriving DecidableEq, Repr

/-- "1-255" (R8): the one bound that the widths of the fields do not already give. -/
abbrev DisplayConfig.legal (c : DisplayConfig) : Prop := c.cols ≠ 0#8

/-- The expander bit that carries each line (R9). `d0` to `d3` are `P_D[0]` to `P_D[3]`. -/
structure PinMap where
  rs : Fin 8
  rw : Fin 8
  en : Fin 8
  bl : Fin 8
  d0 : Fin 8
  d1 : Fin 8
  d2 : Fin 8
  d3 : Fin 8
deriving DecidableEq, Repr

/-- The positions in one list. -/
def PinMap.toList (p : PinMap) : List (Fin 8) := [p.rs, p.rw, p.en, p.bl, p.d0, p.d1, p.d2, p.d3]

/-- "distinct and cover bits 0..7 exactly once" (R9): eight distinct positions below 8 cover all eight. -/
abbrev PinMap.wf (p : PinMap) : Prop := p.toList.Nodup

/-- The command codes OR-ed onto a register when it is emitted (R9, C1). -/
structure CommandCodes where
  functionSet : Byte
  displayControl : Byte
  entryModeSet : Byte
deriving DecidableEq, Repr

/-- The minimum waits (R10), in nanoseconds. -/
structure Timing where
  tAS : Nat
  tPW : Nat
  tExec : Nat
  tExecLong : Nat
  tPowerOn : Nat
  tInit1 : Nat
  tInit2 : Nat
deriving DecidableEq, Repr

/-- Every parameter the spec lets a model be instantiated with (R9, R10, R11). -/
structure Params where
  pins : PinMap
  codes : CommandCodes
  timing : Timing
  backlightReset : Bool
  createCharRestores : Bool
deriving DecidableEq, Repr

/-- The transport oracle's answer to one write (R66). -/
inductive Answer where
  | ok
  | fail
deriving DecidableEq, Repr, Inhabited

/-- FREE VALUE (R66, I19): the oracle's answer to draw `n` where the state's list of answers is used up.
No body, so no proof can see what it is ("a free draw under no law"). -/
opaque Config.freeAnswer : Nat → Answer

/-- OPEN (R8, D28): `DEFAULT_BUS_INDEX`, the index of the bus a block without a handle uses. -/
opaque Config.defaultBusIndex : Nat

/-- OPEN (R8, D28): `I2C_FREQ_MAX` in Hz where the host gives none. -/
opaque Config.defaultFreqMax : Nat

/-- The bus of a block: the host's, or the default one (R8, R243). -/
def DisplayConfig.busIndex (c : DisplayConfig) : Nat := c.bus.getD Config.defaultBusIndex

/-- The bus clock of a block: the host's, or the OPEN default (R8, R251). -/
def DisplayConfig.clock (c : DisplayConfig) : Nat := c.i2cFreqMax.getD Config.defaultFreqMax

end Sys2Proof
end

