-- ==== Sys2Proof/Machine/Defaults.lean ====
section
/-! DEFINITION. The default parameter values (R8 to R11) and the two tables derived from the configuration at
construction: the row offsets (R31) and the function register (R34). -/

namespace Sys2Proof.Machine

/-- Default pin map (R9, D5): RS 0, RW 1, EN 2, BL 3, data 4 to 7. -/
def defaultPins : PinMap := { rs := 0, rw := 1, en := 2, bl := 3, d0 := 4, d1 := 5, d2 := 6, d3 := 7 }

/-- Default command codes (R9, D6). -/
def defaultCodes : CommandCodes := { functionSet := 0x20, displayControl := 0x08, entryModeSet := 0x04 }

/-- Default minimum waits in nanoseconds (R10): 0 ns, 450 ns, 37 µs, 1.5 ms, 50 ms, 4.1 ms, 100 µs. -/
def defaultTiming : Timing :=
  { tAS := 0, tPW := 450, tExec := 37000, tExecLong := 1500000, tPowerOn := 50000000, tInit1 := 4100000
    tInit2 := 100000 }

/-- Default parameters (R9, R10, R11): backlight on after construction, no restore after CREATE_CHAR. -/
def defaultParams : Params :=
  { pins := defaultPins, codes := defaultCodes, timing := defaultTiming, backlightReset := true
    createCharRestores := false }

/-- Default device address `0x27` and character size 5x8 (R8). DESIGN CHOICE (log 2): 2 rows of 16 columns,
which R8 gives no default for; 95_test_vectors.md uses them. -/
def defaultConfig : DisplayConfig :=
  { addr := 0x27, cols := 16, rows := .two, charsize := .dots5x8
    bus := none, i2cFreqMax := none }

/-- `ROW_OFFSET` by row count and column count (R31): `ROWS` entries of 9 bits. -/
def rowOffsetTable (rows : RowCount) (cols : BitVec 8) : List (BitVec 9) :=
  match rows with
  | .one => [0x00]
  | .two => [0x00, 0x40]
  | .four => [0x00, 0x40, 0x00 + cols.setWidth 9, 0x40 + cols.setWidth 9]

/-- `x[FUNCTION]` at construction (R34): bit `N` from the row count, bit `F` from the character size. -/
def functionInit (rows : RowCount) (charsize : CharSize) : Byte :=
  (match rows with
    | .one => 0x00
    | .two => 0x08
    | .four => 0x08) |||
  (match charsize with
    | .dots5x8 => 0x00
    | .dots5x10 => 0x04)

end Sys2Proof.Machine
end

