-- ==== Sys2Proof/Machine/Operands.lean ====
section
/-! DEFINITION. What is computed from operands alone: the expander byte (R120), the nibbles (R67), the long
settle (R123), the clamps (R151, R191, R193), the two address commands (R152, R194) and the cursor response
(R200). Operands are unsigned and zero-extended (R91). -/

namespace Sys2Proof.Machine

/-- `b << p` in 8 bits: one line of the expander byte. -/
def line (b : Bool) (p : Fin 8) : Byte := (BitVec.ofBool b).setWidth 8 <<< p.val

/-- `Compose(nib, rs, en, bl)` (R120); the read/write line is always driven 0. -/
def compose (pins : PinMap) (nib : Nibble) (rs en bl : Bool) : Byte :=
  line (nib.getLsbD 0) pins.d0 ||| line (nib.getLsbD 1) pins.d1 ||| line (nib.getLsbD 2) pins.d2 |||
    line (nib.getLsbD 3) pins.d3 ||| line bl pins.bl ||| line en pins.en ||| line false pins.rw ||| line rs pins.rs

/-- `value[7:4]` (R67). -/
def highNibble (value : Byte) : Nibble := value.extractLsb' 4 4

/-- `value[3:0]` (R67). -/
def lowNibble (value : Byte) : Nibble := value.extractLsb' 0 4

/-- Whether the long settle follows the low nibble: COMMAND `0x01`, `0x02` or `0x03` (R122, R123). -/
def longSettle (value : Byte) (mode : SendMode) : Bool :=
  !mode.bit && (value == 0x01#8 || value == 0x02#8 || value == 0x03#8)

/-- `min(row, ROWS - 1)` (R151). -/
def clampRow (cfg : DisplayConfig) (row : Byte) : Byte := BitVec.ofNat 8 (min row.toNat (cfg.rows.toNat - 1))

/-- `min(col, COLS - 1)` (R151). -/
def clampCol (cfg : DisplayConfig) (col : Byte) : Byte := BitVec.ofNat 8 (min col.toNat (cfg.cols.toNat - 1))

/-- `min(c0 + 1, COLS - 1)`, computed without overflow (R191). -/
def advanceCol (cfg : DisplayConfig) (c0 : Byte) : Byte :=
  BitVec.ofNat 8 (min (c0.toNat + 1) (cfg.cols.toNat - 1))

/-- `min(location, 7)` (R193). -/
def clampSlot (location : Byte) : Byte := BitVec.ofNat 8 (min location.toNat 7)

/-- `0x80 | ((base + c) mod 128)`, the sum computed without overflow (R152). -/
def ddramCmd (base : BitVec 9) (c : Byte) : Byte := 0x80#8 ||| BitVec.ofNat 8 ((base.toNat + c.toNat) % 128)

/-- `CgramCmd(l) = 0x40 | (l << 3)` (R194). -/
def cgramCmd (l : Byte) : Byte := 0x40#8 ||| (l <<< 3)

/-- `{col, row}`: column in bits 15:8, row in bits 7:0 (R200). -/
def cursorResponse (col row : Byte) : Response := col ++ row

/-- `zext_16` of a register (R201, R202, R203). -/
def zext16 (v : Byte) : Response := v.setWidth 16

/-- `zext_16(S.backlight)` (R182). -/
def backlightResponse (b : Bool) : Response := (BitVec.ofBool b).setWidth 16

end Sys2Proof.Machine
end

