-- ==== Sys2Proof/Machine/State.lean ====
section
/-! DEFINITION. The state of the block as plain data, the reasons a step can stop, the faults the block itself
raises and records, and the state after construction (10_state.md, R240). -/

namespace Sys2Proof.Machine

/-- A bus event of the trace (R41), with waits in nanoseconds (log 5). -/
inductive Event where
  /-- `W(a, b)`: a one-byte write of `b` to device address `a` (R14). -/
  | write (a : Address) (b : Byte)
  /-- `T(t)`: a minimum wait of `t` (R15). -/
  | wait (t : Nat)
deriving DecidableEq, Repr

/-- The fields whose read can raise `UninitRead` (R210). -/
inductive FieldName where
  | control
  | mode
  | cursor
deriving DecidableEq, Repr

/-- The three faults the block raises at run time, with the info R210 says is recorded. Raising one is a next
state (R214), not an end of the model's run: see `takeFault`. -/
inductive RaisedFault where
  | transportFailure (b : Byte)
  | illegalOp (w : Word)
  | uninitRead (name : FieldName)
deriving DecidableEq, Repr

/-- Why there is no step. Each of the three is a state from which the spec gives the block no step. -/
inductive Fault where
  /-- Raised by `step` when `S.halted` is 1: the run has ended (R42, R215). Safe. -/
  | runEnded
  /-- Raised by `step` for a CREATE_CHAR that announces more extension words than remain: "the operation has no
  step" (R97). A stuck state, neither ended nor faulted. Safe. -/
  | stuckShortStream
  /-- Raised by `step` when `S.pc` is beyond the stream, which no run reaches (log 9). Safe. -/
  | pcPastEnd
deriving DecidableEq, Repr

/-- Why an instruction has no meaning in the model. -/
inductive Refusal where
  /-- Raised by an arm of `exec` whose instruction has no meaning yet; no arm does now. Safe. -/
  | notModelled (mnemonic : String)
deriving DecidableEq, Repr

/-- Everything the spec gives the block (10_state.md, section 1), and two fields of the model's own: `answers`
and `drawn`, from which the transport oracle's answers are taken (R66, log 1). `none` in an Option field is the
spec's own value `UNSPEC` (R13, log 4). -/
structure State where
  /-- `ADDR`, `COLS`, `ROWS`, `CHARSIZE` and the OPEN bus parameters (R8, R30). -/
  cfg : DisplayConfig
  /-- Pin map, command codes, waits and switches (R9, R10, R11). -/
  params : Params
  /-- `ROW_OFFSET` (R31). -/
  rowOffset : List (BitVec 9)
  /-- `x[FUNCTION]` (R33). -/
  functionReg : Byte
  /-- `x[CONTROL]` (R35). -/
  controlReg : Option Byte
  /-- `x[MODE]` (R36). -/
  modeReg : Option Byte
  /-- `S.cursor_col` (R38). -/
  cursorCol : Option Byte
  /-- `S.cursor_row` (R38). -/
  cursorRow : Option Byte
  /-- `S.backlight` (R39). -/
  backlight : Bool
  /-- `S.latch`, the expander's output byte (R45). -/
  latch : Option Byte
  /-- `S.pc`, a word index (R40). -/
  pc : Nat
  /-- `S.prog`, the operation stream (R40). -/
  prog : List Word
  /-- `S.trace`, oldest event first (R41). -/
  trace : List Event
  /-- `S.resp`, oldest response first (R41). -/
  resp : List Response
  /-- `S.faults`, oldest first (R42). -/
  faults : List (Nat × RaisedFault)
  /-- `S.halted` (R42). -/
  halted : Bool
  /-- MODEL'S OWN: the oracle's answers to the next writes, first one first; past its end the answers are
  `Config.freeAnswer` (log 1). -/
  answers : List Answer
  /-- MODEL'S OWN: how many answers were drawn so far (log 1). -/
  drawn : Nat
deriving DecidableEq, Repr

/-- The state construction leaves (R240), with no stream loaded yet. -/
def State.construct (cfg : DisplayConfig) (params : Params) : State :=
  { cfg := cfg
    params := params
    rowOffset := rowOffsetTable cfg.rows cfg.cols
    functionReg := functionInit cfg.rows cfg.charsize
    controlReg := none
    modeReg := none
    cursorCol := none
    cursorRow := none
    backlight := params.backlightReset
    latch := none
    pc := 0
    prog := []
    trace := []
    resp := []
    faults := []
    halted := false
    answers := []
    drawn := 0 }

/-- The block right after construction with the default configuration and parameters. -/
def State.reset : State := State.construct defaultConfig defaultParams

end Sys2Proof.Machine
end

