-- ==== Sys2Proof/Machine/Ops.lean ====
section
/-! DEFINITION. The named operations every meaning is built from: reads and writes of the shadow registers and
the cursor, taking a fault (R16, R214), the transport oracle (R66), `BusWrite` (R14), `Wait` (R15), the enable
sequence (R121), `Emit` (R122), `Respond` (R17) and the advance of `pc` (R18). -/

namespace Sys2Proof.Machine

/-! ## Registers and cursor -/

/-- Read `x[FUNCTION]`: its hard-wired bits read 0 (R33, log 11). -/
def readFunction (s : State) : Byte := s.functionReg &&& functionBits

/-- Read `x[CONTROL]`: its hard-wired bits read 0 (R35); `none` is `UNSPEC` (R37). -/
def readControl (s : State) : Option Byte := s.controlReg.map (· &&& controlBits)

/-- Read `x[MODE]`: its hard-wired bits read 0 (R36); `none` is `UNSPEC` (R37). -/
def readMode (s : State) : Option Byte := s.modeReg.map (· &&& modeBits)

/-- `x[CONTROL] <- v`; the hard-wired bits stay 0 (R35). -/
def writeControl (v : Byte) (s : State) : State := { s with controlReg := some (v &&& controlBits) }

/-- `x[MODE] <- v`; the hard-wired bits stay 0 (R36). -/
def writeMode (v : Byte) (s : State) : State := { s with modeReg := some (v &&& modeBits) }

/-- `S.cursor_col <- c; S.cursor_row <- r`. -/
def writeCursor (c r : Byte) (s : State) : State := { s with cursorCol := some c, cursorRow := some r }

/-- `S.cursor_col <- c`. -/
def writeCursorCol (c : Byte) (s : State) : State := { s with cursorCol := some c }

/-- `S.backlight <- v`. -/
def writeBacklight (v : Bool) (s : State) : State := { s with backlight := v }

/-- `ROW_OFFSET[min(r, ROWS - 1)]` (R32); 0 for a table shorter than `ROWS`, which no run reaches (log 10). -/
def rowBase (s : State) (r : Byte) : BitVec 9 := s.rowOffset.getD (min r.toNat (s.cfg.rows.toNat - 1)) 0

/-- `pc <- pc + n` (R18). -/
def advance (n : Nat) (s : State) : State := { s with pc := s.pc + n }

/-- `Respond(v)` (R17). -/
def respond (v : Response) (s : State) : State := { s with resp := s.resp ++ [v] }

/-! ## Faults -/

/-- The status code of each fault (R210); an operation that ends without one has code 0. -/
def faultCode : RaisedFault → Nat
  | .transportFailure _ => 1
  | .illegalOp _ => 2
  | .uninitRead _ => 3

/-- Taking a fault (R16, R214): the pair `(S.pc, fault)` is appended to the log, the pc is not advanced, the run
halts, and nothing else is saved or changed. There is no vector, no handler and no return (R220). -/
def takeFault (f : RaisedFault) (s : State) : State :=
  { s with faults := s.faults ++ [(s.pc, f)], halted := true }

/-- The end of the stream without a fault (R215): `S.halted <- 1`. -/
def endRun (s : State) : State := { s with halted := true }

/-- How far an operation's pseudocode got: to the end of a line, or to a `raise` (R16), with the state written
so far. -/
inductive Progress where
  | ok (s : State)
  | raised (f : RaisedFault) (s : State)
deriving DecidableEq, Repr

/-- The next line of the pseudocode: "a `raise` or a failing `BusWrite` ends it" (R19). -/
def Progress.andThen : Progress → (State → Progress) → Progress
  | .ok s, k => k s
  | .raised f s, _ => .raised f s

/-- The status of the operation (R16, R210). -/
def Progress.status : Progress → Nat
  | .ok _ => 0
  | .raised f _ => faultCode f

/-- The state the operation leaves: as written, and the fault taken if one was raised. -/
def Progress.settle : Progress → State
  | .ok s => s
  | .raised f s => takeFault f s

/-- The outcome of an operation: always a next state. -/
def complete (p : Progress) : Host.Outcome State Fault Refusal := .next p.settle

/-! ## The bus -/

/-- The oracle's answer to the `k`-th write from here (R66): from the state's list, then a free value. -/
def State.answerAt (s : State) (k : Nat) : Answer := (s.answers[k]?).getD (Config.freeAnswer (s.drawn + k))

/-- The event `W(ADDR, b)`, one answer drawn, and the latch the answer leaves (R14, R45, R61). -/
def logWrite (b : Byte) (latch : Option Byte) (s : State) : State :=
  { s with trace := s.trace ++ [.write s.cfg.addr b], latch := latch, answers := s.answers.tail
           drawn := s.drawn + 1 }

/-- The event `T(t)` (R15). -/
def logWait (t : Nat) (s : State) : State := { s with trace := s.trace ++ [.wait t] }

/-- `BusWrite(b)` (R14): the event, then the answer; after `Ok` the latch holds `b`, after `Fail` it is
`UNSPEC` (R45) and `TransportFailure(b)` is raised. -/
def busWrite (b : Byte) (s : State) : Progress :=
  match s.answerAt 0 with
  | .ok => .ok (logWrite b (some b) s)
  | .fail => .raised (.transportFailure b) (logWrite b none s)

/-- One line of the emitter's pseudocode. -/
inductive BusAction where
  | write (b : Byte)
  | wait (t : Nat)
deriving DecidableEq, Repr

/-- The lines in order; a failing write ends them at once (R128). -/
def perform : List BusAction → State → Progress
  | [], s => .ok s
  | .write b :: as, s => (busWrite b s).andThen (perform as)
  | .wait t :: as, s => perform as (logWait t s)

/-- `WriteNibble(nib, rs, t_after)` (R121), line by line. -/
def nibbleActions (p : Params) (bl : Bool) (nib : Nibble) (mode : SendMode) (tAfter : Nat) : List BusAction :=
  let b := compose p.pins nib mode.bit false bl
  [.write b, .wait p.timing.tAS, .write (b ||| line true p.pins.en), .wait p.timing.tPW, .write b, .wait tAfter]

/-- `WriteNibble` on the state: the backlight bit is the state's (R121). -/
def writeNibble (nib : Nibble) (mode : SendMode) (tAfter : Nat) (s : State) : Progress :=
  perform (nibbleActions s.params s.backlight nib mode tAfter) s

/-- The settle after the low nibble (R122, R123). -/
def settleTime (t : Timing) (value : Byte) (mode : SendMode) : Nat :=
  if longSettle value mode then t.tExecLong else t.tExec

/-- `Emit(value, mode)` (R122): the high nibble, then the low nibble. -/
def emit (value : Byte) (mode : SendMode) (s : State) : Progress :=
  (writeNibble (highNibble value) mode s.params.timing.tExec s).andThen fun s1 =>
    writeNibble (lowNibble value) mode (settleTime s1.params.timing value mode) s1

/-- The operation's last line, `pc <- pc + n` (R18, C9). -/
def finish (n : Nat) (s : State) : Progress := .ok (advance n s)

end Sys2Proof.Machine
end

