-- ==== Sys2Proof/Machine/Backlight.lean ====
section
/-! DEFINITION. SET_BACKLIGHT and GET_BACKLIGHT (43_backlight.md). -/

namespace Sys2Proof.Machine

/-- SET_BACKLIGHT (R180): the state bit first, then one write with the enable line low and no wait (R181). -/
def execSetBacklight (v : Bool) (s : State) : Host.Outcome State Fault Refusal :=
  complete ((busWrite (compose s.params.pins 0x0#4 SendMode.command.bit false v) (writeBacklight v s)).andThen
    (finish 1))

/-- GET_BACKLIGHT (R182). -/
def execGetBacklight (s : State) : Host.Outcome State Fault Refusal :=
  complete (finish 1 (respond (backlightResponse s.backlight) s))

end Sys2Proof.Machine
end

