-- ==== Sys2Proof/Machine/Emitter.lean ====
section
/-! DEFINITION. The Command Emitter's one operation, SEND (40_emitter.md). -/

namespace Sys2Proof.Machine

/-- SEND (R124): one byte as a command or data byte, no shadow state touched. -/
def execSend (value : Byte) (mode : SendMode) (s : State) : Host.Outcome State Fault Refusal :=
  complete ((emit value mode s).andThen (finish 1))

end Sys2Proof.Machine
end

