-- ==== Sys2Proof/Machine/RegisterState.lean ====
section
/-! DEFINITION. The Register State operations: the ten toggles, SET_CURSOR, HOME and CLEAR
(41_register_state.md). -/

namespace Sys2Proof.Machine

/-- `TOGGLE(CONTROL, DISPLAY_CONTROL, BIT, set)` (R140): the register is written before the emit. -/
def toggleControl (bit : Byte) (set : Bool) (s : State) : Progress :=
  match readControl s with
  | none => .raised (.uninitRead .control) s
  | some old =>
    let new := toggleBits bit set old
    (emit (s.params.codes.displayControl ||| new) .command (writeControl new s)).andThen (finish 1)

/-- `TOGGLE(MODE, ENTRY_MODE_SET, BIT, set)` (R140): the register is written before the emit. -/
def toggleMode (bit : Byte) (set : Bool) (s : State) : Progress :=
  match readMode s with
  | none => .raised (.uninitRead .mode) s
  | some old =>
    let new := toggleBits bit set old
    (emit (s.params.codes.entryModeSet ||| new) .command (writeMode new s)).andThen (finish 1)

/-- DISPLAY (R141). -/
def execDisplay (s : State) : Host.Outcome State Fault Refusal := complete (toggleControl flagDisplay true s)

/-- NO_DISPLAY (R142). -/
def execNoDisplay (s : State) : Host.Outcome State Fault Refusal := complete (toggleControl flagDisplay false s)

/-- CURSOR (R143). -/
def execCursor (s : State) : Host.Outcome State Fault Refusal := complete (toggleControl flagCursor true s)

/-- NO_CURSOR (R144). -/
def execNoCursor (s : State) : Host.Outcome State Fault Refusal := complete (toggleControl flagCursor false s)

/-- BLINK (R145). -/
def execBlink (s : State) : Host.Outcome State Fault Refusal := complete (toggleControl flagBlink true s)

/-- NO_BLINK (R146). -/
def execNoBlink (s : State) : Host.Outcome State Fault Refusal := complete (toggleControl flagBlink false s)

/-- LEFT_TO_RIGHT (R147). -/
def execLeftToRight (s : State) : Host.Outcome State Fault Refusal := complete (toggleMode flagLeftToRight true s)

/-- RIGHT_TO_LEFT (R148). -/
def execRightToLeft (s : State) : Host.Outcome State Fault Refusal := complete (toggleMode flagLeftToRight false s)

/-- AUTOSCROLL (R149). -/
def execAutoscroll (s : State) : Host.Outcome State Fault Refusal := complete (toggleMode flagAutoscroll true s)

/-- NO_AUTOSCROLL (R150). -/
def execNoAutoscroll (s : State) : Host.Outcome State Fault Refusal := complete (toggleMode flagAutoscroll false s)

/-- SET_CURSOR (R151): clamp, emit the DDRAM address command, then update the cursor. -/
def execSetCursor (col row : Byte) (s : State) : Host.Outcome State Fault Refusal :=
  let r := clampRow s.cfg row
  let c := clampCol s.cfg col
  complete ((emit (ddramCmd (rowBase s r) c) .command s).andThen fun s1 => finish 1 (writeCursor c r s1))

/-- A command byte, then the cursor at the origin: the body HOME and CLEAR share (R153, R155). -/
def emitThenOrigin (value : Byte) (s : State) : Progress :=
  (emit value .command s).andThen fun s1 => .ok (writeCursor 0#8 0#8 s1)

/-- HOME (R153). -/
def execHome (s : State) : Host.Outcome State Fault Refusal :=
  complete ((emitThenOrigin 0x02#8 s).andThen (finish 1))

/-- CLEAR (R155). -/
def execClear (s : State) : Host.Outcome State Fault Refusal :=
  complete ((emitThenOrigin 0x01#8 s).andThen (finish 1))

end Sys2Proof.Machine
end

