-- ==== Sys2Proof/Machine/Initialization.lean ====
section
/-! DEFINITION. BEGIN, the power-on initialization of the controller (42_initialization.md). -/

namespace Sys2Proof.Machine

/-- `ForceFourBit()` (R171): four raw nibbles, no second nibble. -/
def forceFourBit (s : State) : Progress :=
  (writeNibble 0x3#4 .command s.params.timing.tInit1 s).andThen fun s1 =>
  (writeNibble 0x3#4 .command s1.params.timing.tInit2 s1).andThen fun s2 =>
  (writeNibble 0x3#4 .command s2.params.timing.tExec s2).andThen fun s3 =>
  writeNibble 0x2#4 .command s3.params.timing.tExec s3

/-- BEGIN's pseudocode (R170) without its last line. Each register is written just before its own emit (D16). -/
def beginBody (s : State) : Progress :=
  (forceFourBit (logWait s.params.timing.tPowerOn s)).andThen fun s1 =>
  (emit (s1.params.codes.functionSet ||| readFunction s1) .command s1).andThen fun s2 =>
  (emit (s2.params.codes.displayControl ||| controlAfterBegin) .command
    (writeControl controlAfterBegin s2)).andThen fun s3 =>
  (emit (s3.params.codes.entryModeSet ||| modeAfterBegin) .command (writeMode modeAfterBegin s3)).andThen fun s4 =>
  emitThenOrigin 0x01#8 s4

/-- BEGIN (R170). -/
def execBegin (s : State) : Host.Outcome State Fault Refusal := complete ((beginBody s).andThen (finish 1))

end Sys2Proof.Machine
end

