-- ==== Sys2Proof/Machine/Queries.lean ====
section
/-! DEFINITION. The state queries (45_queries.md): each answers on the response list and makes no bus event. -/

namespace Sys2Proof.Machine

/-- GET_CURSOR's pseudocode (R200). -/
def getCursorBody (s : State) : Progress :=
  match s.cursorCol, s.cursorRow with
  | some c, some r => finish 1 (respond (cursorResponse c r) s)
  | none, _ => .raised (.uninitRead .cursor) s
  | some _, none => .raised (.uninitRead .cursor) s

/-- GET_CURSOR (R200). -/
def execGetCursor (s : State) : Host.Outcome State Fault Refusal := complete (getCursorBody s)

/-- GET_FUNCTION (R201). -/
def execGetFunction (s : State) : Host.Outcome State Fault Refusal :=
  complete (finish 1 (respond (zext16 (readFunction s)) s))

/-- Respond with a register, or raise `UninitRead` of its name (R202, R203). -/
def respondRegister (name : FieldName) (v : Option Byte) (s : State) : Progress :=
  match v with
  | none => .raised (.uninitRead name) s
  | some v => finish 1 (respond (zext16 v) s)

/-- GET_CONTROL (R202). -/
def execGetControl (s : State) : Host.Outcome State Fault Refusal :=
  complete (respondRegister .control (readControl s) s)

/-- GET_MODE (R203). -/
def execGetMode (s : State) : Host.Outcome State Fault Refusal := complete (respondRegister .mode (readMode s) s)

end Sys2Proof.Machine
end

