-- ==== Sys2Proof/Machine/Text.lean ====
section
/-! DEFINITION. PRINT_CHAR, CREATE_CHAR and the two display shifts (44_text_glyphs.md). -/

namespace Sys2Proof.Machine

/-- PRINT_CHAR (R191): the column is read before any write and advanced after the emit; the row never changes. -/
def execPrintChar (code : Byte) (s : State) : Host.Outcome State Fault Refusal :=
  match s.cursorCol with
  | none => complete (.raised (.uninitRead .cursor) s)
  | some c0 =>
    complete ((emit code .data s).andThen fun s1 => finish 1 (writeCursorCol (advanceCol s1.cfg c0) s1))

/-- Each byte as a DATA byte, in order, unmasked (R193). -/
def emitAll : List Byte → State → Progress
  | [], s => .ok s
  | b :: bs, s => (emit b .data s).andThen (emitAll bs)

/-- The CGRAM address command and the charmap bytes (R193). -/
def emitGlyph (location : Byte) (charmap : List Byte) (s : State) : Progress :=
  (emit (cgramCmd (clampSlot location)) .command s).andThen (emitAll charmap)

/-- CREATE_CHAR (R193). With the switch on, the cursor is read before any write and its DDRAM address command
ends the operation; the cursor fields never change (D15, D30). -/
def createCharBody (location : Byte) (charmap : List Byte) (s : State) : Progress :=
  if s.params.createCharRestores then
    match s.cursorCol, s.cursorRow with
    | some c, some r =>
      (emitGlyph location charmap s).andThen fun s1 => emit (ddramCmd (rowBase s1 r) c) .command s1
    | none, _ => .raised (.uninitRead .cursor) s
    | some _, none => .raised (.uninitRead .cursor) s
  else emitGlyph location charmap s

/-- CREATE_CHAR (R193): its last line advances over the first word and the extension words. -/
def execCreateChar (location : Byte) (charmap : List Byte) (s : State) : Host.Outcome State Fault Refusal :=
  complete ((createCharBody location charmap s).andThen (finish (1 + charmap.length)))

/-- SCROLL_DISPLAY_LEFT (R195). -/
def execScrollDisplayLeft (s : State) : Host.Outcome State Fault Refusal :=
  complete ((emit 0x18#8 .command s).andThen (finish 1))

/-- SCROLL_DISPLAY_RIGHT (R196). -/
def execScrollDisplayRight (s : State) : Host.Outcome State Fault Refusal :=
  complete ((emit 0x1C#8 .command s).andThen (finish 1))

end Sys2Proof.Machine
end

