-- ==== Sys2Proof/Machine/Dispatch.lean ====
section
/-! DEFINITION. One arm per operation, each a direct call of its meaning (R98: "perform row's rule"). -/

namespace Sys2Proof.Machine

/-- The meaning of one decoded operation. -/
def exec (i : Instr) (s : State) : Host.Outcome State Fault Refusal :=
  match i with
  | .send value mode => Sys2Proof.Machine.execSend value mode s
  | .display => Sys2Proof.Machine.execDisplay s
  | .noDisplay => Sys2Proof.Machine.execNoDisplay s
  | .cursor => Sys2Proof.Machine.execCursor s
  | .noCursor => Sys2Proof.Machine.execNoCursor s
  | .blink => Sys2Proof.Machine.execBlink s
  | .noBlink => Sys2Proof.Machine.execNoBlink s
  | .leftToRight => Sys2Proof.Machine.execLeftToRight s
  | .rightToLeft => Sys2Proof.Machine.execRightToLeft s
  | .autoscroll => Sys2Proof.Machine.execAutoscroll s
  | .noAutoscroll => Sys2Proof.Machine.execNoAutoscroll s
  | .setCursor col row => Sys2Proof.Machine.execSetCursor col row s
  | .home => Sys2Proof.Machine.execHome s
  | .clear => Sys2Proof.Machine.execClear s
  | .begin => Sys2Proof.Machine.execBegin s
  | .setBacklight v => Sys2Proof.Machine.execSetBacklight v s
  | .getBacklight => Sys2Proof.Machine.execGetBacklight s
  | .printChar code => Sys2Proof.Machine.execPrintChar code s
  | .createChar location charmap => Sys2Proof.Machine.execCreateChar location charmap s
  | .scrollDisplayLeft => Sys2Proof.Machine.execScrollDisplayLeft s
  | .scrollDisplayRight => Sys2Proof.Machine.execScrollDisplayRight s
  | .getCursor => Sys2Proof.Machine.execGetCursor s
  | .getFunction => Sys2Proof.Machine.execGetFunction s
  | .getControl => Sys2Proof.Machine.execGetControl s
  | .getMode => Sys2Proof.Machine.execGetMode s

end Sys2Proof.Machine
end

