-- ==== Sys2Proof/Machine/Fetch.lean ====
section
/-! DEFINITION. What a step reads of the operation stream, and how one operation's words are placed where the
next step reads them. -/

namespace Sys2Proof.Machine

/-- The words from `S.prog[S.pc]` on (R98). -/
def fetchWords (s : State) : List Word := s.prog.drop s.pc

/-- What decoding them gives (R98). -/
def fetch (s : State) : DecodeResult := decode (fetchWords s)

/-- The stream with `ws` at index `pc`; words of zeros fill a stream that is shorter than `pc`. -/
def placeAt (pc : Nat) (ws prog : List Word) : List Word :=
  prog.take pc ++ List.replicate (pc - prog.length) 0 ++ ws ++ prog.drop (pc + ws.length)

/-- The stream loaded with that operation at `S.pc`, and the run not yet halted, so that the next step runs it. -/
def storeAtFetch (s : State) (nbits w : Nat) : State :=
  { s with prog := placeAt s.pc (tableStream nbits w) s.prog, halted := false }

end Sys2Proof.Machine
end

