-- ==== Sys2Proof/Machine/Step.lean ====
section
/-! DEFINITION. One step of the block: end of the run, decoding, and the decoded operation (R98, R215, R218). -/

namespace Sys2Proof.Machine

/-- One step. A halted block has none (R42, R215, log 3); at the end of the stream the run completes (R215, log 8); a word
that is no operation raises `IllegalOp` (R212); a CREATE_CHAR short of words has no step (R97, log 12); anything else is
the decoded operation's meaning. -/
def step (s : State) : Host.Outcome State Fault Refusal :=
  if s.halted then .fault .runEnded
  else if s.pc = s.prog.length then .next (endRun s)
  else
    match fetch s with
    | .noWord => .fault .pcPastEnd
    | .short => .fault .stuckShortStream
    | .illegal w => complete (.raised (.illegalOp w) s)
    | .decoded i _ => exec i s

/-- `s` with the operation whose bits are `w` loaded where `step` fetches next (log 6). -/
def State.withFetchWord (s : State) (nbits w : Nat) : State := storeAtFetch s nbits w

end Sys2Proof.Machine
end

