-- ==== Sys2Proof/Machine/Assembler.lean ====
section
/-! DEFINITION. The assembly syntax (R99) and the pseudo-instructions (R100): a line of text to the operations
it stands for, or none where "the assembler" refuses it. What R99 leaves open of its form is log 16. -/

namespace Sys2Proof.Machine

/-- The mnemonics: "the source's operation names in upper case" (R93, R99). -/
def mnemonicText : Opcode → String
  | .send => "SEND"
  | .display => "DISPLAY"
  | .noDisplay => "NO_DISPLAY"
  | .cursor => "CURSOR"
  | .noCursor => "NO_CURSOR"
  | .blink => "BLINK"
  | .noBlink => "NO_BLINK"
  | .leftToRight => "LEFT_TO_RIGHT"
  | .rightToLeft => "RIGHT_TO_LEFT"
  | .autoscroll => "AUTOSCROLL"
  | .noAutoscroll => "NO_AUTOSCROLL"
  | .setCursor => "SET_CURSOR"
  | .home => "HOME"
  | .clear => "CLEAR"
  | .begin => "BEGIN"
  | .setBacklight => "SET_BACKLIGHT"
  | .getBacklight => "GET_BACKLIGHT"
  | .printChar => "PRINT_CHAR"
  | .createChar => "CREATE_CHAR"
  | .scrollDisplayLeft => "SCROLL_DISPLAY_LEFT"
  | .scrollDisplayRight => "SCROLL_DISPLAY_RIGHT"
  | .getCursor => "GET_CURSOR"
  | .getFunction => "GET_FUNCTION"
  | .getControl => "GET_CONTROL"
  | .getMode => "GET_MODE"

/-! ## Tokens -/

/-- A token of a line. -/
inductive Token where
  | word (cs : List Char)
  | comma
  | openBracket
  | closeBracket
  /-- The characters between two double quotes. -/
  | text (cs : List Char)
deriving DecidableEq, Repr

/-- What the characters read so far belong to: nothing, a word, or a quoted text (both newest first). -/
inductive LexMode where
  | between
  | inWord (acc : List Char)
  | inText (acc : List Char)
deriving DecidableEq, Repr

/-- Letters, digits and the underscore make words. -/
def isWordChar (c : Char) : Bool := c.isAlphanum || c == '_'

/-- The token of a word that has just ended, put before the rest. -/
def endWord (m : LexMode) (rest : List Token) : List Token :=
  match m with
  | .inWord acc => .word acc.reverse :: rest
  | .between => rest
  | .inText _ => rest

/-- The tokens of a line: `;` starts a comment, blanks separate, any other character outside a quoted text is
refused (a minus sign among them: "a negative number" has no encoding). An unclosed text is refused. -/
def lexLine : LexMode → List Char → Option (List Token)
  | .inText _, [] => none
  | m, [] => some (endWord m [])
  | .inText acc, c :: cs =>
    if c = '"' then (lexLine .between cs).map (.text acc.reverse :: ·) else lexLine (.inText (c :: acc)) cs
  | m, c :: cs =>
    if c = ';' then some (endWord m [])
    else if c = ' ' ∨ c = '\t' then (lexLine .between cs).map (endWord m)
    else if c = ',' then (lexLine .between cs).map fun ts => endWord m (.comma :: ts)
    else if c = '[' then (lexLine .between cs).map fun ts => endWord m (.openBracket :: ts)
    else if c = ']' then (lexLine .between cs).map fun ts => endWord m (.closeBracket :: ts)
    else if c = '"' then (lexLine (.inText []) cs).map (endWord m)
    else if isWordChar c then
      match m with
      | .inWord acc => lexLine (.inWord (c :: acc)) cs
      | .between => lexLine (.inWord [c]) cs
      | .inText _ => none
    else none

/-! ## Numbers -/

/-- The digits in the order of their values: a decimal number uses the first ten, a hexadecimal one all sixteen
(R99). -/
def digitOrder : List Char := "0123456789ABCDEF".toList

/-- The place of a character among the digits of a base; a small letter is the same digit as its capital (log 16). -/
def digitIn (base : Nat) (c : Char) : Option Nat := (digitOrder.take base).idxOf? c.toUpper

/-- The number that digits spell in a base, most significant first; none where one of them is no digit of the base. -/
def positional (base : Nat) (cs : List Char) : Option Nat :=
  cs.foldlM (fun n c => (digitIn base c).map (n * base + ·)) 0

/-- "numbers in decimal or `0x` hexadecimal" (R99). -/
def numberValue : List Char → Option Nat
  | [] => none
  | '0' :: 'x' :: [] => none
  | '0' :: 'x' :: cs => positional 16 cs
  | cs => positional 10 cs

/-- A number as an 8-bit operand; "greater than 255" is refused (R99). -/
def byteOperand (cs : List Char) : Option Byte :=
  match numberValue cs with
  | none => none
  | some n => if n ≤ 255 then some (BitVec.ofNat 8 n) else none

/-! ## Lines -/

/-- The operation of a mnemonic that takes no operand (format `Z`). -/
def nullaryInstr : Opcode → Option Instr
  | .display => some .display
  | .noDisplay => some .noDisplay
  | .cursor => some .cursor
  | .noCursor => some .noCursor
  | .blink => some .blink
  | .noBlink => some .noBlink
  | .leftToRight => some .leftToRight
  | .rightToLeft => some .rightToLeft
  | .autoscroll => some .autoscroll
  | .noAutoscroll => some .noAutoscroll
  | .home => some .home
  | .clear => some .clear
  | .begin => some .begin
  | .getBacklight => some .getBacklight
  | .scrollDisplayLeft => some .scrollDisplayLeft
  | .scrollDisplayRight => some .scrollDisplayRight
  | .getCursor => some .getCursor
  | .getFunction => some .getFunction
  | .getControl => some .getControl
  | .getMode => some .getMode
  | .send | .setCursor | .setBacklight | .printChar | .createChar => none

/-- The mnemonic a word spells. -/
def opcodeOfText (cs : List Char) : Option Opcode := allOpcodes.find? fun op => (mnemonicText op).toList == cs

/-- `CMD` or `DATA` (R99). -/
def modeOperand (cs : List Char) : Option SendMode :=
  if cs = "CMD".toList then some .command else if cs = "DATA".toList then some .data else none

/-- `SET_BACKLIGHT 0` or `SET_BACKLIGHT 1` (R99). -/
def bitOperand (cs : List Char) : Option Bool :=
  match numberValue cs with
  | some 0 => some false
  | some 1 => some true
  | _ => none

/-- The bytes of a charmap after its open bracket: numbers with commas between them, up to the close bracket. -/
def charmapTail : List Token → Option (List Byte)
  | [.word w, .closeBracket] => (byteOperand w).map fun b => [b]
  | .word w :: .comma :: ts =>
    match byteOperand w, charmapTail ts with
    | some b, some bs => some (b :: bs)
    | none, _ => none
    | some _, none => none
  | _ => none

/-- A charmap after its open bracket, possibly empty. -/
def charmapOperand : List Token → Option (List Byte)
  | [.closeBracket] => some []
  | ts => charmapTail ts

/-- `PRINT` (R100): one PRINT_CHAR per character, in order; a code above `0xFF` is refused (R190, D29). -/
def printExpansion : List Char → Option (List Instr)
  | [] => some []
  | c :: cs =>
    match printExpansion cs with
    | none => none
    | some is => if c.toNat ≤ 0xFF then some (.printChar (BitVec.ofNat 8 c.toNat) :: is) else none

/-- The pseudo-instructions without operands (R100). -/
def pseudoExpansion (cs : List Char) : Option (List Instr) :=
  if cs = "BACKLIGHT".toList then some [.setBacklight true]
  else if cs = "NO_BACKLIGHT".toList then some [.setBacklight false]
  else if cs = "CURSOR_POSITION".toList then some [.getCursor]
  else none

/-- One operand list for one mnemonic (R99). More than 255 charmap entries are refused. -/
def operandForm (op : Opcode) (ts : List Token) : Option Instr :=
  match op, ts with
  | .send, [.word v, .comma, .word m] =>
    match byteOperand v, modeOperand m with
    | some v, some m => some (.send v m)
    | none, _ => none
    | some _, none => none
  | .setCursor, [.word c, .comma, .word r] =>
    match byteOperand c, byteOperand r with
    | some c, some r => some (.setCursor c r)
    | none, _ => none
    | some _, none => none
  | .setBacklight, [.word v] => (bitOperand v).map .setBacklight
  | .printChar, [.word c] => (byteOperand c).map .printChar
  | .createChar, .word l :: .comma :: .openBracket :: ts =>
    match byteOperand l, charmapOperand ts with
    | some l, some bs => if bs.length ≤ 255 then some (.createChar l bs) else none
    | none, _ => none
    | some _, none => none
  | op, [] => nullaryInstr op
  | _, _ => none

/-- The operations a line's tokens stand for; a line without tokens stands for none. -/
def parseLine : List Token → Option (List Instr)
  | [] => some []
  | .word m :: ts =>
    match opcodeOfText m, ts with
    | some op, ts => (operandForm op ts).map fun i => [i]
    | none, [] => pseudoExpansion m
    | none, [.text cs] => if m = "PRINT".toList then printExpansion cs else none
    | none, _ => none
  | _ => none

/-- The operations of one line of assembly. -/
def assembleLine (line : String) : Option (List Instr) :=
  match lexLine .between line.toList with
  | none => none
  | some ts => parseLine ts

/-- The words of a whole program, "one operation per line"; none if any line is refused. -/
def assemble : List String → Option (List Word)
  | [] => some []
  | l :: ls =>
    match assembleLine l, assemble ls with
    | some is, some ws => some (is.flatMap encode ++ ws)
    | none, _ => none
    | some _, none => none

end Sys2Proof.Machine
end

