-- ==== Sys2Proof/Machine/Launch.lean ====
section
/-! DEFINITION. What the host does to the block from outside: construction with its refusal (R216, R240),
loading an operation stream (R40, R221), and what it reads at the end of a run (R6). -/

namespace Sys2Proof.Machine

/-- The configuration a host asks for, before it is checked. -/
structure ConfigRequest where
  addr : Nat
  cols : Nat
  rows : Nat
  charsize : Nat
  bus : Option Nat
  i2cFreqMax : Option Nat
deriving DecidableEq, Repr

/-- `ConfigRefused`: the offending parameter (R210, R216). No block state exists after it. -/
inductive ConfigRefused where
  | rows
  | cols
  | addr
  | charsize
deriving DecidableEq, Repr

/-- The legal row counts (R8). -/
def rowCountOf? : Nat → Option RowCount
  | 1 => some .one
  | 2 => some .two
  | 4 => some .four
  | _ => none

/-- The legal character sizes (R8). -/
def charSizeOf? : Nat → Option CharSize
  | 0 => some .dots5x8
  | 1 => some .dots5x10
  | _ => none

/-- The checks of R216. Where several parameters offend, the one it names first is recorded (log 7). -/
def checkConfig (q : ConfigRequest) : Except ConfigRefused DisplayConfig :=
  match rowCountOf? q.rows with
  | none => .error .rows
  | some rows =>
    if q.cols = 0 ∨ q.cols > 255 then .error .cols
    else if q.addr > 0x7F then .error .addr
    else
      match charSizeOf? q.charsize with
      | none => .error .charsize
      | some charsize =>
        .ok { addr := BitVec.ofNat 7 q.addr, cols := BitVec.ofNat 8 q.cols, rows := rows, charsize := charsize
              bus := q.bus, i2cFreqMax := q.i2cFreqMax }

/-- Construction, the block's reset (R240): the configuration is checked, then the state is set; no bus event. -/
def constructBlock (q : ConfigRequest) (params : Params) : Except ConfigRefused State :=
  match checkConfig q with
  | .error e => .error e
  | .ok cfg => .ok (State.construct cfg params)

/-- Launch of a run (R40, R41, R42): the stream is given, execution starts at word 0 (R241), the observation
lists are empty. The configuration and every shadow field keep their values: the first launch follows
construction, a later one is the new run "from the faulted state's shadow fields" of R221 (log 15). -/
def launch (prog : List Word) (s : State) : State :=
  { s with prog := prog, pc := 0, trace := [], resp := [], faults := [], halted := false }

/-- What a run's observation holds (R6): the trace, the responses, the final shadow state, the fault log. -/
structure Observation where
  trace : List Event
  resp : List Response
  functionReg : Byte
  controlReg : Option Byte
  modeReg : Option Byte
  cursorCol : Option Byte
  cursorRow : Option Byte
  backlight : Bool
  faults : List (Nat × RaisedFault)
deriving DecidableEq, Repr

/-- The observation of a state (R6); the registers are the shadow values (R44). -/
def observe (s : State) : Observation :=
  { trace := s.trace, resp := s.resp, functionReg := readFunction s, controlReg := readControl s
    modeReg := readMode s, cursorCol := s.cursorCol, cursorRow := s.cursorRow, backlight := s.backlight
    faults := s.faults }

/-- The level of one output line of the expander, `none` while the latch is `UNSPEC` (R45, R62, R224). -/
def outputLine (pin : Fin 8) (s : State) : Option Bool := s.latch.map fun b => b.getLsbD pin.val

/-- Status code of the last operation that ended (R210): 0, or the code of the fault in the log. -/
def statusCode (s : State) : Nat :=
  match s.faults.getLast? with
  | none => 0
  | some (_, f) => faultCode f

end Sys2Proof.Machine
end

