-- ==== Sys2Proof/Safety.lean ====
section
/-! DEFINITION. The terms claims are stated in: the fault-free premise (R66), the closed form of the emitter's
events (R125, R170, R171), what a run of answered writes leaves, the ways a run ends (R215), the invariant of
reachable states, and the opcode table as spec/opcode_table.json writes it. None of it is used by `step`. -/

namespace Sys2Proof.Machine

/-! ## Answers -/

/-- "every answer is `Ok`" for the next `n` writes, the named premise of a fault-free claim (R66). -/
abbrev State.AnswersOk (s : State) (n : Nat) : Prop := ∀ k, k < n → s.answerAt k = .ok

/-! ## Events -/

/-- How many `W` events a list holds. -/
def writeCount : List Event → Nat
  | [] => 0
  | .write _ _ :: es => writeCount es + 1
  | .wait _ :: es => writeCount es

/-- How many `T` events a list holds. -/
def waitCount : List Event → Nat
  | [] => 0
  | .write _ _ :: es => waitCount es
  | .wait _ :: es => waitCount es + 1

/-- The sum of the minimum waits in a list, in nanoseconds (R253). -/
def waitSum : List Event → Nat
  | [] => 0
  | .write _ _ :: es => waitSum es
  | .wait t :: es => waitSum es + t

/-- The byte of the first `W` event. -/
def firstWrite : List Event → Option Byte
  | [] => none
  | .write _ b :: _ => some b
  | .wait _ :: es => firstWrite es

/-- The events up to and with the `j`-th write (the first is 0): what a run keeps whose write `j` fails. -/
def uptoWrite : Nat → List Event → List Event
  | _, [] => []
  | n, .wait t :: es => .wait t :: uptoWrite n es
  | 0, .write a b :: _ => [.write a b]
  | n + 1, .write a b :: es => .write a b :: uptoWrite n es

/-- The latch after the writes of a list, all answered `Ok` (R45). -/
def latchAfter : Option Byte → List Event → Option Byte
  | l, [] => l
  | _, .write _ b :: es => latchAfter (some b) es
  | l, .wait _ :: es => latchAfter l es

/-- `s` after the events `es`, every write answered `Ok`; no other field changes. -/
def State.afterEvents (es : List Event) (s : State) : State :=
  { s with trace := s.trace ++ es, latch := latchAfter s.latch es, answers := s.answers.drop (writeCount es)
           drawn := s.drawn + writeCount es }

/-- `s` after an operation whose events are `es` and whose write `j`, of the byte `b`, is the first answered
`Fail` (R128, R214): the events up to that write, an unknown latch (R45), and the fault taken at the pc; no other
field changes. -/
def State.afterFailedWrite (j : Nat) (es : List Event) (b : Byte) (s : State) : State :=
  { s with trace := s.trace ++ uptoWrite j es, latch := none, answers := s.answers.drop (j + 1)
           drawn := s.drawn + (j + 1), faults := s.faults ++ [(s.pc, .transportFailure b)], halted := true }

/-- `s` after a read of the `UNSPEC` field `name` (R213, R214): the fault taken, no other field changed. -/
def State.afterUninitRead (name : FieldName) (s : State) : State :=
  { s with faults := s.faults ++ [(s.pc, .uninitRead name)], halted := true }

/-- The byte of write `j` in a list of events: what a `TransportFailure` of that write records (R210). -/
def writeByte : Nat → List Event → Option Byte
  | _, [] => none
  | n, .wait _ :: es => writeByte n es
  | 0, .write _ b :: _ => some b
  | n + 1, .write _ _ :: es => writeByte n es

/-- The three writes and three waits of one nibble (R121). -/
def nibbleEvents (s : State) (nib : Nibble) (mode : SendMode) (tAfter : Nat) : List Event :=
  let b := compose s.params.pins nib mode.bit false s.backlight
  [.write s.cfg.addr b, .wait s.params.timing.tAS, .write s.cfg.addr (b ||| (1#8 <<< s.params.pins.en.val)),
   .wait s.params.timing.tPW, .write s.cfg.addr b, .wait tAfter]

/-- The six writes and six waits of one sent byte (R125): `h, h|E, h, l, l|E, l`, high nibble first (R67), the
long settle last for COMMAND `0x01`, `0x02`, `0x03` (R123). -/
def sendEvents (s : State) (value : Byte) (mode : SendMode) : List Event :=
  nibbleEvents s (value.extractLsb' 4 4) mode s.params.timing.tExec ++
  nibbleEvents s (value.extractLsb' 0 4) mode
    (if mode = .command ∧ (value = 0x01#8 ∨ value = 0x02#8 ∨ value = 0x03#8) then s.params.timing.tExecLong
     else s.params.timing.tExec)

/-- The events of one BEGIN (R170, R171) on a block whose function register reads `fn`. -/
def beginEvents (s : State) (fn : Byte) : List Event :=
  [.wait s.params.timing.tPowerOn] ++
  (nibbleEvents s 0x3#4 .command s.params.timing.tInit1 ++ nibbleEvents s 0x3#4 .command s.params.timing.tInit2 ++
   nibbleEvents s 0x3#4 .command s.params.timing.tExec ++ nibbleEvents s 0x2#4 .command s.params.timing.tExec) ++
  sendEvents s (s.params.codes.functionSet ||| fn) .command ++
  sendEvents s (s.params.codes.displayControl ||| 0x04#8) .command ++
  sendEvents s (s.params.codes.entryModeSet ||| 0x02#8) .command ++
  sendEvents s 0x01#8 .command

/-- The events of CREATE_CHAR without the restore (R193): the slot's address command, then each byte. -/
def glyphEvents (s : State) (location : Byte) (charmap : List Byte) : List Event :=
  sendEvents s (0x40#8 ||| (BitVec.ofNat 8 (min location.toNat 7) <<< 3)) .command ++
  charmap.flatMap fun b => sendEvents s b .data

/-! ## Addresses -/

/-- The DDRAM base of a row by the table of R31, as a number. -/
def rowBaseOf (cfg : DisplayConfig) (r : Nat) : Nat :=
  match r with
  | 0 => 0x00
  | 1 => 0x40
  | 2 => cfg.cols.toNat
  | _ => 0x40 + cfg.cols.toNat

/-- "set DDRAM address" for a clamped row and column, as R152 computes it, from the base of R31. -/
def ddramByte (cfg : DisplayConfig) (r c : Nat) : Byte := 0x80#8 ||| BitVec.ofNat 8 ((rowBaseOf cfg r + c) % 128)

/-! ## Costs -/

/-- `W` events, `T` events and the sum of minimum waits in nanoseconds of one operation that ends without a
fault, with the default parameters: the table of R253. -/
def operationCost (restores : Bool) : Instr → Nat × Nat × Nat
  | .send value mode =>
    if mode = .command ∧ (value = 0x01#8 ∨ value = 0x02#8 ∨ value = 0x03#8) then (6, 6, 1537900) else (6, 6, 74900)
  | .home | .clear => (6, 6, 1537900)
  | .begin => (36, 37, 56038400)
  | .createChar _ charmap =>
    let sends := 1 + charmap.length + (if restores then 1 else 0)
    (6 * sends, 6 * sends, sends * 74900)
  | .setBacklight _ => (1, 0, 0)
  | .getBacklight | .getCursor | .getFunction | .getControl | .getMode => (0, 0, 0)
  | .display | .noDisplay | .cursor | .noCursor | .blink | .noBlink => (6, 6, 74900)
  | .leftToRight | .rightToLeft | .autoscroll | .noAutoscroll => (6, 6, 74900)
  | .setCursor _ _ | .printChar _ | .scrollDisplayLeft | .scrollDisplayRight => (6, 6, 74900)

/-! ## The ends of a run -/

/-- How a run stands (R215). -/
inductive RunStatus where
  | running
  | completed
  | faulted
  | stuck
deriving DecidableEq, Repr

/-- The run's standing: faulted with a fault in the log, completed when halted without one, stuck where the next
operation is a CREATE_CHAR short of words, and otherwise still running. -/
def runStatus (s : State) : RunStatus :=
  if s.faults ≠ [] then .faulted
  else if s.halted then .completed
  else if s.pc < s.prog.length ∧ fetch s = .short then .stuck
  else .running

/-- Run a list of operations one after the other, stopping after the first that halts the block. -/
def execAll : List Instr → State → Host.Outcome State Fault Refusal
  | [], s => .next s
  | i :: is, s =>
    match exec i s with
    | .next t => if t.halted then .next t else execAll is t
    | .fault f => .fault f
    | .refused r => .refused r

/-! ## The invariant -/

/-- What holds of every reachable state: a legal configuration and pin map, the tables derived from it, the
hard-wired register bits, the clamped cursor, a stream index inside the stream, at most one fault, at the pc and
only in a halted block, and a trace that writes `ADDR` alone with the read/write line low. -/
structure State.Inv (s : State) : Prop where
  /-- R8. -/
  cols_pos : s.cfg.legal
  /-- R9. -/
  pins_wf : s.params.pins.wf
  /-- R31. -/
  row_table : s.rowOffset = rowOffsetTable s.cfg.rows s.cfg.cols
  /-- R34. -/
  function_value : s.functionReg = functionInit s.cfg.rows s.cfg.charsize
  /-- R35. -/
  control_hardwired : ∀ v, s.controlReg = some v → v &&& ~~~controlBits = 0
  /-- R36. -/
  mode_hardwired : ∀ v, s.modeReg = some v → v &&& ~~~modeBits = 0
  /-- BEGIN writes `x[CONTROL]` before `x[MODE]` (R170). -/
  control_first : s.modeReg ≠ none → s.controlReg ≠ none
  /-- R38. -/
  col_clamped : ∀ c, s.cursorCol = some c → c.toNat ≤ s.cfg.cols.toNat - 1
  /-- R38. -/
  row_clamped : ∀ r, s.cursorRow = some r → r.toNat ≤ s.cfg.rows.toNat - 1
  /-- R38: both cursor fields are `UNSPEC` or neither is. -/
  cursor_pair : s.cursorCol.isSome = s.cursorRow.isSome
  /-- R40. -/
  pc_in_stream : s.pc ≤ s.prog.length
  /-- R42. -/
  faulted_halts : s.faults ≠ [] → s.halted = true
  /-- R215. -/
  single_fault : s.faults.length ≤ 1
  /-- R214: the fault's index is the pc. -/
  fault_at_pc : ∀ p f, (p, f) ∈ s.faults → p = s.pc
  /-- R215: halted without a fault is completed. -/
  halted_done : s.halted = true → s.faults = [] → s.pc = s.prog.length
  /-- R61 and R120: every write is to `ADDR` with the read/write line 0. -/
  trace_writes : ∀ a b, Event.write a b ∈ s.trace → a = s.cfg.addr ∧ b.getLsbD s.params.pins.rw.val = false

/-! ## The opcode table -/

/-- `mask` and `match` of each row of spec/opcode_table.json. -/
def opcodeRow : Opcode → Word × Word
  | .send => (0xFF00FEFF, 0x01000000)
  | .display => (0xFFFFFFFF, 0x10000000)
  | .noDisplay => (0xFFFFFFFF, 0x11000000)
  | .cursor => (0xFFFFFFFF, 0x12000000)
  | .noCursor => (0xFFFFFFFF, 0x13000000)
  | .blink => (0xFFFFFFFF, 0x14000000)
  | .noBlink => (0xFFFFFFFF, 0x15000000)
  | .leftToRight => (0xFFFFFFFF, 0x16000000)
  | .rightToLeft => (0xFFFFFFFF, 0x17000000)
  | .autoscroll => (0xFFFFFFFF, 0x18000000)
  | .noAutoscroll => (0xFFFFFFFF, 0x19000000)
  | .setCursor => (0xFF0000FF, 0x1A000000)
  | .home => (0xFFFFFFFF, 0x1B000000)
  | .clear => (0xFFFFFFFF, 0x1C000000)
  | .begin => (0xFFFFFFFF, 0x20000000)
  | .setBacklight => (0xFFFEFFFF, 0x30000000)
  | .getBacklight => (0xFFFFFFFF, 0x31000000)
  | .printChar => (0xFF00FFFF, 0x40000000)
  | .createChar => (0xFF0000FF, 0x41000000)
  | .scrollDisplayLeft => (0xFFFFFFFF, 0x42000000)
  | .scrollDisplayRight => (0xFFFFFFFF, 0x43000000)
  | .getCursor => (0xFFFFFFFF, 0x50000000)
  | .getFunction => (0xFFFFFFFF, 0x51000000)
  | .getControl => (0xFFFFFFFF, 0x52000000)
  | .getMode => (0xFFFFFFFF, 0x53000000)

/-- `(w & mask) == match` for a row of the table (R93). -/
abbrev matchesRow (w : Word) (op : Opcode) : Prop := w &&& (opcodeRow op).1 = (opcodeRow op).2

end Sys2Proof.Machine
end

