-- ==== Sys2Proof/Certificates/Slice0/Obligations.lean ====
section
/-! DEFINITION. The statements for the provers. Each says which rule of spec/ it formalises; a statement about a
next state gives the whole state, so what the instruction leaves unchanged is part of it. Statements hold for
every answer of the transport oracle: where writes must succeed or fail, a premise on `answerAt` says so (R66). -/

open Sys2Proof Sys2Proof.Machine

/-! ## Construction and launch -/

/-- R240: what construction leaves, for every accepted configuration and every parameter set. -/
def Obligations.ConstructionLeavesTheResetState : Prop :=
  ∀ (q : ConfigRequest) (params : Params) (cfg : DisplayConfig), checkConfig q = .ok cfg →
    ∃ s, constructBlock q params = .ok s ∧ s.cfg = cfg ∧ s.params = params ∧
      s.rowOffset = rowOffsetTable cfg.rows cfg.cols ∧
      s.functionReg = (if cfg.rows.toNat ≥ 2 then 0x08 else 0x00) |||
        (if cfg.charsize = .dots5x10 then 0x04 else 0x00) ∧
      s.controlReg = none ∧ s.modeReg = none ∧ s.cursorCol = none ∧ s.cursorRow = none ∧
      s.backlight = params.backlightReset ∧ s.latch = none ∧ s.pc = 0 ∧
      s.trace = [] ∧ s.resp = [] ∧ s.faults = [] ∧ s.halted = false

/-- R216: construction is refused exactly for an illegal configuration, names a parameter that offends, and an
accepted configuration is the one asked for. -/
def Obligations.ConstructionRefusesExactlyIllegalConfigurations : Prop :=
  ∀ (q : ConfigRequest) (params : Params),
    ((∃ s, constructBlock q params = .ok s) ↔
      (q.rows = 1 ∨ q.rows = 2 ∨ q.rows = 4) ∧ 1 ≤ q.cols ∧ q.cols ≤ 255 ∧ q.addr ≤ 0x7F ∧
        (q.charsize = 0 ∨ q.charsize = 1)) ∧
    (∀ e, constructBlock q params = .error e →
      match e with
      | .rows => ¬ (q.rows = 1 ∨ q.rows = 2 ∨ q.rows = 4)
      | .cols => q.cols = 0 ∨ q.cols > 255
      | .addr => q.addr > 0x7F
      | .charsize => ¬ (q.charsize = 0 ∨ q.charsize = 1)) ∧
    (∀ s, constructBlock q params = .ok s →
      s.cfg.rows.toNat = q.rows ∧ s.cfg.cols.toNat = q.cols ∧ s.cfg.addr.toNat = q.addr ∧
        (s.cfg.charsize = .dots5x10 ↔ q.charsize = 1) ∧ s.cfg.bus = q.bus ∧
        s.cfg.i2cFreqMax = q.i2cFreqMax)

/-- R31: construction builds the row-offset table by row count, entry by entry and with no overflow of its 9 bits, and
no step changes it. -/
def Obligations.RowOffsetTableEntries : Prop :=
  (∀ (cfg : DisplayConfig) (params : Params),
    (State.construct cfg params).rowOffset.map BitVec.toNat =
      match cfg.rows with
      | .one => [0x00]
      | .two => [0x00, 0x40]
      | .four => [0x00, 0x40, 0x00 + cfg.cols.toNat, 0x40 + cfg.cols.toNat]) ∧
  (∀ s t : State, step s = .next t → t.rowOffset = s.rowOffset)

/-- R32: a lookup of any row reads the last valid row's base or its own, from the table of R31. -/
def Obligations.RowLookupIsClamped : Prop :=
  ∀ (s : State) (r : Byte), s.rowOffset = rowOffsetTable s.cfg.rows s.cfg.cols →
    (rowBase s r).toNat = rowBaseOf s.cfg (min r.toNat (s.cfg.rows.toNat - 1))

/-- R241 and R221: a launch keeps the configuration and the shadow fields, empties the observation, and the first
step runs the operation at word 0 of the stream. That it keeps the latch, which R45 lets only a write and construction
change, and empties the fault log on a relaunch, is the model's reading (log 15, DEDUCED). -/
def Obligations.LaunchStartsAtWordZero : Prop :=
  ∀ (s : State) (ws : List Word) (i : Instr) (rest : List Word), decode ws = .decoded i rest →
    step (launch ws s) = exec i (launch ws s) ∧
    launch ws s = { s with prog := ws, pc := 0, trace := [], resp := [], faults := [], halted := false }

/-! ## Encoding -/

/-- Decode and encode agree on every well-formed operation, whatever words follow. -/
def Obligations.DecodeOfEncodeIsTheOperation : Prop :=
  ∀ (i : Instr) (rest : List Word), i.WellFormed → decode (encode i ++ rest) = .decoded i rest

/-- The other direction: decoded words are the encoding of a well-formed operation and nothing else. -/
def Obligations.DecodedWordsAreTheEncoding : Prop :=
  ∀ (ws : List Word) (i : Instr) (rest : List Word), decode ws = .decoded i rest →
    i.WellFormed ∧ ws = encode i ++ rest

/-- R93: a word is an operation exactly when it matches a row of the opcode table, and it matches at most one. -/
def Obligations.FirstWordMatchesExactlyOneTableRow : Prop :=
  (∀ (w : Word) (op : Opcode), decodeOpcode w = some op ↔ matchesRow w op) ∧
  (∀ (w : Word) (op op' : Opcode), matchesRow w op → matchesRow w op' → op = op')

/-- R92: the number of words an operation takes is told by its first word alone. -/
def Obligations.FirstWordTellsTheLength : Prop :=
  ∀ (ws : List Word) (i : Instr) (rest : List Word) (w : Word), decode (w :: ws) = .decoded i rest →
    wordLength w = i.length ∧ (w :: ws).length = i.length + rest.length

/-- Words written out bit by bit from R90 and R93 decode to the operations they stand for. -/
def Obligations.SampleWordsDecode : Prop :=
  decode [0b00000001_01000001_00000001_00000000#32] = .decoded (.send 0x41 .data) [] ∧
  decode [0b00010001_00000000_00000000_00000000#32] = .decoded .noDisplay [] ∧
  decode [0b00011010_00001010_00000010_00000000#32] = .decoded (.setCursor 10 2) [] ∧
  decode [0b00100000_00000000_00000000_00000000#32] = .decoded .begin [] ∧
  decode [0b00110000_00000001_00000000_00000000#32] = .decoded (.setBacklight true) [] ∧
  decode [0b01000000_01001000_00000000_00000000#32] = .decoded (.printChar 0x48) [] ∧
  decode [0b01000001_00001001_00000001_00000000#32, 0b00000000_00000000_00000000_00011111#32] =
    .decoded (.createChar 9 [0x1F]) [] ∧
  decode [0b01010000_00000000_00000000_00000000#32] = .decoded .getCursor []

/-! ## The step -/

/-- A step runs the operation the words at the pc decode to; the meaning itself advances the pc (R98). -/
def Obligations.StepRunsTheDecodedOperation : Prop :=
  ∀ (s : State) (i : Instr) (rest : List Word), s.halted = false → decode (s.prog.drop s.pc) = .decoded i rest →
    step s = exec i s

/-- The same from the encoding: where a well-formed operation's words stand at the pc, the step is that operation. -/
def Obligations.StepRunsTheEncodedOperation : Prop :=
  ∀ (s : State) (i : Instr) (rest : List Word), s.halted = false → i.WellFormed →
    s.prog.drop s.pc = encode i ++ rest → step s = exec i s

/-- R212, R214 and R218: a word that matches no row of the opcode table raises `IllegalOp` of that word and has no
other effect, whatever else holds of the state. -/
def Obligations.IllegalFirstWordFaultsAndChangesNothingElse : Prop :=
  ∀ (s : State) (w : Word), s.halted = false → s.prog[s.pc]? = some w → (∀ op, ¬ matchesRow w op) →
    step s = .next { s with faults := s.faults ++ [(s.pc, .illegalOp w)], halted := true }

/-- R96: the first extension word with a bit of 31:8 set raises `IllegalOp` of that word for the CREATE_CHAR,
before any of its effects. -/
def Obligations.IllegalExtensionWordFaultsAndChangesNothingElse : Prop :=
  ∀ (s : State) (w : Word) (k : Nat) (e : Word), s.halted = false → s.prog[s.pc]? = some w →
    matchesRow w .createChar → s.pc + (fieldB w).toNat < s.prog.length → k < (fieldB w).toNat →
    s.prog[s.pc + 1 + k]? = some e → e >>> 8 ≠ 0 →
    (∀ j, j < k → ∀ e', s.prog[s.pc + 1 + j]? = some e' → e' >>> 8 = 0) →
    step s = .next { s with faults := s.faults ++ [(s.pc, .illegalOp e)], halted := true }

/-- R97: a CREATE_CHAR that announces more extension words than remain has no step; the state is stuck, neither
ended nor faulted. -/
def Obligations.ShortCreateCharIsStuck : Prop :=
  ∀ (s : State) (w : Word), s.halted = false → s.faults = [] → s.prog[s.pc]? = some w → matchesRow w .createChar →
    s.pc + (fieldB w).toNat ≥ s.prog.length →
    step s = .fault .stuckShortStream ∧ runStatus s = .stuck

/-- R215 (a) and R42: at the end of the stream the run completes, nothing but `S.halted` changes, and a halted
block has no step. That completing is a step of its own is the model's choice (log 8). -/
def Obligations.EndOfStreamCompletesTheRun : Prop :=
  (∀ s : State, s.halted = false → s.faults = [] → s.pc = s.prog.length →
    step s = .next { s with halted := true } ∧ runStatus { s with halted := true } = .completed) ∧
  (∀ s : State, s.halted = true → step s = .fault .runEnded)

/-- Where a step stops: only a halted block, a CREATE_CHAR short of words, or a pc beyond the stream; no operation
is refused. -/
def Obligations.StepStopsOnlyWhereTheRunHasEndedOrIsStuck : Prop :=
  ∀ s : State, (∃ t, step s = .next t) ∨ (s.halted = true ∧ step s = .fault .runEnded) ∨
    (s.halted = false ∧ step s = .fault .stuckShortStream ∧
      ∃ w, s.prog[s.pc]? = some w ∧ matchesRow w .createChar ∧ s.pc + (fieldB w).toNat ≥ s.prog.length) ∨
    (s.halted = false ∧ s.prog.length < s.pc ∧ step s = .fault .pcPastEnd)

/-! ## The emitter -/

/-- R102: the expander byte with the default pin map. -/
def Obligations.DefaultExpanderByte : Prop :=
  ∀ (nib : Nibble) (rs en bl : Bool),
    compose defaultPins nib rs en bl =
      nib ++ BitVec.ofBool bl ++ BitVec.ofBool en ++ 0#1 ++ BitVec.ofBool rs

/-- R120 with R9: on every legal pin map each line of the expander byte carries its own bit and the read/write
line is 0. -/
def Obligations.ExpanderByteCarriesEachLine : Prop :=
  ∀ (p : PinMap) (nib : Nibble) (rs en bl : Bool), p.wf →
    (compose p nib rs en bl).getLsbD p.rs.val = rs ∧ (compose p nib rs en bl).getLsbD p.en.val = en ∧
    (compose p nib rs en bl).getLsbD p.bl.val = bl ∧ (compose p nib rs en bl).getLsbD p.rw.val = false ∧
    (compose p nib rs en bl).getLsbD p.d0.val = nib.getLsbD 0 ∧
    (compose p nib rs en bl).getLsbD p.d1.val = nib.getLsbD 1 ∧
    (compose p nib rs en bl).getLsbD p.d2.val = nib.getLsbD 2 ∧
    (compose p nib rs en bl).getLsbD p.d3.val = nib.getLsbD 3

/-- R124 and R125: SEND of any byte in either mode, every write answered `Ok`. -/
def Obligations.SendEmitsOneByteAndLeavesTheShadowState : Prop :=
  ∀ (s : State) (value : Byte) (mode : SendMode), s.AnswersOk 6 →
    exec (.send value mode) s = .next { s.afterEvents (sendEvents s value mode) with pc := s.pc + 1 }

/-- R195 and R196: the display shifts, by their words, emit `0x18` and `0x1C` from every state and change no shadow
field; a failing write ends them with `TransportFailure`. -/
def Obligations.DisplayShiftsEmitOneCommand : Prop :=
  ∀ (i : Instr) (w : Word) (value : Byte),
    (i, w, value) ∈ [(Instr.scrollDisplayLeft, 0x42000000#32, 0x18#8), (.scrollDisplayRight, 0x43000000#32, 0x1C#8)] →
    decode [w] = .decoded i [] ∧
    ∀ s : State,
      (s.AnswersOk 6 → exec i s = .next { s.afterEvents (sendEvents s value .command) with pc := s.pc + 1 }) ∧
      (∀ (j : Nat) (b : Byte), j < 6 → s.AnswersOk j → s.answerAt j = .fail →
        writeByte j (sendEvents s value .command) = some b →
        exec i s = .next (s.afterFailedWrite j (sendEvents s value .command) b))

/-- R128, R211 and decision D16 of the spec: SEND, PRINT_CHAR and SET_CURSOR write the shadow only after their one sent
byte, so where write `j` is the first answered `Fail` they keep the events up to that write, raise `TransportFailure`
of its byte, and change no shadow field and not the pc. -/
def Obligations.FailedSendLeavesTheShadowState : Prop :=
  ∀ (s : State) (i : Instr) (value : Byte) (mode : SendMode) (j : Nat) (b : Byte),
    (i = .send value mode ∨ (i = .printChar value ∧ s.cursorCol ≠ none ∧ mode = .data) ∨
      (∃ col row : Byte, i = .setCursor col row ∧ mode = .command ∧
        s.rowOffset = rowOffsetTable s.cfg.rows s.cfg.cols ∧
        value = ddramByte s.cfg (min row.toNat (s.cfg.rows.toNat - 1)) (min col.toNat (s.cfg.cols.toNat - 1)))) →
    j < 6 → s.AnswersOk j → s.answerAt j = .fail → writeByte j (sendEvents s value mode) = some b →
    exec i s = .next (s.afterFailedWrite j (sendEvents s value mode) b)

/-! ## The toggles -/

/-- R141 to R146, by the template of R140: a control toggle, by its word, sets or clears its one bit of `x[CONTROL]` and
emits the whole register OR-ed with its command code. Where the register is `UNSPEC` it faults with no other effect;
where a write fails the register already holds the new value, which is the spec's decision D16. -/
def Obligations.ControlTogglesWriteOneBitAndEmitTheRegister : Prop :=
  ∀ (i : Instr) (w : Word) (bit : Byte) (set : Bool),
    (i, w, bit, set) ∈ [(Instr.display, 0x10000000#32, 0x04#8, true), (.noDisplay, 0x11000000#32, 0x04#8, false),
      (.cursor, 0x12000000#32, 0x02#8, true), (.noCursor, 0x13000000#32, 0x02#8, false),
      (.blink, 0x14000000#32, 0x01#8, true), (.noBlink, 0x15000000#32, 0x01#8, false)] →
    decode [w] = .decoded i [] ∧
    ∀ s : State, (s.controlReg = none → exec i s = .next (s.afterUninitRead .control)) ∧
      ∀ old new : Byte, readControl s = some old → new = (if set then old ||| bit else old &&& ~~~bit) →
        (s.AnswersOk 6 →
          exec i s = .next { s.afterEvents (sendEvents s (s.params.codes.displayControl ||| new) .command) with
            controlReg := some new, pc := s.pc + 1 }) ∧
        (∀ (j : Nat) (b : Byte), j < 6 → s.AnswersOk j → s.answerAt j = .fail →
          writeByte j (sendEvents s (s.params.codes.displayControl ||| new) .command) = some b →
          exec i s = .next
            { s.afterFailedWrite j (sendEvents s (s.params.codes.displayControl ||| new) .command) b with
              controlReg := some new })

/-- R147 to R150, by the template of R140: a mode toggle, by its word, sets or clears its one bit of `x[MODE]` and emits
the whole register OR-ed with its command code. Where the register is `UNSPEC` it faults with no other effect; where
a write fails the register already holds the new value. Which bit is direction and which autoscroll is the spec's own
decision D7. -/
def Obligations.ModeTogglesWriteOneBitAndEmitTheRegister : Prop :=
  ∀ (i : Instr) (w : Word) (bit : Byte) (set : Bool),
    (i, w, bit, set) ∈ [(Instr.leftToRight, 0x16000000#32, 0x02#8, true), (.rightToLeft, 0x17000000#32, 0x02#8, false),
      (.autoscroll, 0x18000000#32, 0x01#8, true), (.noAutoscroll, 0x19000000#32, 0x01#8, false)] →
    decode [w] = .decoded i [] ∧
    ∀ s : State, (s.modeReg = none → exec i s = .next (s.afterUninitRead .mode)) ∧
      ∀ old new : Byte, readMode s = some old → new = (if set then old ||| bit else old &&& ~~~bit) →
        (s.AnswersOk 6 →
          exec i s = .next { s.afterEvents (sendEvents s (s.params.codes.entryModeSet ||| new) .command) with
            modeReg := some new, pc := s.pc + 1 }) ∧
        (∀ (j : Nat) (b : Byte), j < 6 → s.AnswersOk j → s.answerAt j = .fail →
          writeByte j (sendEvents s (s.params.codes.entryModeSet ||| new) .command) = some b →
          exec i s = .next
            { s.afterFailedWrite j (sendEvents s (s.params.codes.entryModeSet ||| new) .command) b with
              modeReg := some new })

/-- R213: an operation that reads an `UNSPEC` field raises `UninitRead` of its name before any state write and any
bus event: the ten toggles, the two register queries, PRINT_CHAR, GET_CURSOR, and CREATE_CHAR with the restore. -/
def Obligations.UnspecifiedReadFaultsBeforeAnyEffect : Prop :=
  ∀ (s : State) (i : Instr) (name : FieldName),
    ((i ∈ [Instr.display, .noDisplay, .cursor, .noCursor, .blink, .noBlink, .getControl] ∧ name = .control ∧
        s.controlReg = none) ∨
      (i ∈ [Instr.leftToRight, .rightToLeft, .autoscroll, .noAutoscroll, .getMode] ∧ name = .mode ∧
        s.modeReg = none) ∨
      ((∃ code, i = .printChar code) ∧ name = .cursor ∧ s.cursorCol = none) ∨
      (i = .getCursor ∧ name = .cursor ∧ (s.cursorCol = none ∨ s.cursorRow = none)) ∨
      ((∃ location charmap, i = .createChar location charmap) ∧ name = .cursor ∧
        s.params.createCharRestores = true ∧ (s.cursorCol = none ∨ s.cursorRow = none))) →
    exec i s = .next (s.afterUninitRead name)

/-- R156: running a toggle twice leaves the registers as running it once does, and each run emits the same one
byte. -/
def Obligations.TogglesAreIdempotent : Prop :=
  ∀ (i : Instr) (s : State),
    (i ∈ [Instr.display, .noDisplay, .cursor, .noCursor, .blink, .noBlink] ∧ s.controlReg ≠ none) ∨
      (i ∈ [Instr.leftToRight, .rightToLeft, .autoscroll, .noAutoscroll] ∧ s.modeReg ≠ none) →
    s.halted = false → s.AnswersOk 12 →
    ∃ t1 t2 v, exec i s = .next t1 ∧ exec i t1 = .next t2 ∧
      t2.controlReg = t1.controlReg ∧ t2.modeReg = t1.modeReg ∧
      t1.trace = s.trace ++ sendEvents s v .command ∧ t2.trace = t1.trace ++ sendEvents s v .command

/-! ## Cursor positioning -/

/-- R151 and R152: SET_CURSOR clamps both coordinates, emits the DDRAM address of the clamped position and then
holds it as the cursor. -/
def Obligations.SetCursorClampsEmitsAndMoves : Prop :=
  ∀ (s : State) (col row : Byte) (c r : Nat), s.rowOffset = rowOffsetTable s.cfg.rows s.cfg.cols →
    c = min col.toNat (s.cfg.cols.toNat - 1) → r = min row.toNat (s.cfg.rows.toNat - 1) → s.AnswersOk 6 →
    exec (.setCursor col row) s =
      .next { s.afterEvents (sendEvents s (ddramByte s.cfg r c) .command) with
        cursorCol := some (BitVec.ofNat 8 c), cursorRow := some (BitVec.ofNat 8 r), pc := s.pc + 1 }

/-- R152: the command is the low 8 bits of `0x80 | (base + col)` for every sum. -/
def Obligations.DdramCommandIsTheLowByteOfTheSum : Prop :=
  ∀ (base : BitVec 9) (c : Byte), ddramCmd base c = BitVec.ofNat 8 (0x80 ||| (base.toNat + c.toNat))

/-- R153 and R155: HOME and CLEAR, by their words, emit `0x02` and `0x01` with the long settle from every state and then
hold the origin; where a write fails the cursor is unchanged. -/
def Obligations.HomeAndClearEmitAndGoToTheOrigin : Prop :=
  ∀ (i : Instr) (w : Word) (value : Byte),
    (i, w, value) ∈ [(Instr.home, 0x1B000000#32, 0x02#8), (.clear, 0x1C000000#32, 0x01#8)] →
    decode [w] = .decoded i [] ∧
    ∀ s : State,
      (s.AnswersOk 6 → (sendEvents s value .command).getLast? = some (.wait s.params.timing.tExecLong) ∧
        exec i s = .next { s.afterEvents (sendEvents s value .command) with
          cursorCol := some 0#8, cursorRow := some 0#8, pc := s.pc + 1 }) ∧
      (∀ (j : Nat) (b : Byte), j < 6 → s.AnswersOk j → s.answerAt j = .fail →
        writeByte j (sendEvents s value .command) = some b →
        exec i s = .next (s.afterFailedWrite j (sendEvents s value .command) b))

/-! ## BEGIN -/

/-- R170, R171 and R172: BEGIN's events in full and the registers and cursor it leaves. -/
def Obligations.BeginInitializesTheControllerAndTheShadow : Prop :=
  ∀ s : State, s.functionReg = functionInit s.cfg.rows s.cfg.charsize → s.AnswersOk 36 →
    exec .begin s = .next { s.afterEvents (beginEvents s s.functionReg) with
      controlReg := some 0x04#8, modeReg := some 0x02#8, cursorCol := some 0#8, cursorRow := some 0#8, pc := s.pc + 1 }

/-- R174: 36 writes and 37 waits, the first event the power-on wait, the last the long settle. -/
def Obligations.BeginEventCounts : Prop :=
  ∀ (s t : State) (es : List Event), exec .begin s = .next t → t.faults = s.faults → t.trace = s.trace ++ es →
    writeCount es = 36 ∧ waitCount es = 37 ∧ es.head? = some (.wait s.params.timing.tPowerOn) ∧
      es.getLast? = some (.wait s.params.timing.tExecLong)

/-- R170 and D16: after a failure of write `j` each register holds its new value exactly when its own write came
before that write; the cursor never moves. -/
def Obligations.FailedBeginKeepsWhatWasWritten : Prop :=
  ∀ (s : State) (j : Nat) (b : Byte), s.functionReg = functionInit s.cfg.rows s.cfg.charsize →
    j < 36 → s.AnswersOk j → s.answerAt j = .fail → writeByte j (beginEvents s s.functionReg) = some b →
    exec .begin s = .next { s.afterFailedWrite j (beginEvents s s.functionReg) b with
      controlReg := if j < 18 then s.controlReg else some 0x04#8
      modeReg := if j < 24 then s.modeReg else some 0x02#8 }

/-- R173: two BEGINs on blocks that agree on the configuration, the parameters and the backlight produce the same
events and the same shadow state, whatever else differed. -/
def Obligations.BeginForgetsTheStateBeforeIt : Prop :=
  ∀ (s s' t t' : State), s.cfg = s'.cfg → s.params = s'.params → s.backlight = s'.backlight →
    s.functionReg = functionInit s.cfg.rows s.cfg.charsize →
    s'.functionReg = functionInit s'.cfg.rows s'.cfg.charsize →
    exec .begin s = .next t → exec .begin s' = .next t' → t.faults = s.faults → t'.faults = s'.faults →
    (∃ es, t.trace = s.trace ++ es ∧ t'.trace = s'.trace ++ es) ∧
      t.functionReg = t'.functionReg ∧ t.controlReg = t'.controlReg ∧ t.modeReg = t'.modeReg ∧
      t.cursorCol = t'.cursorCol ∧ t.cursorRow = t'.cursorRow ∧ t.backlight = t'.backlight

/-! ## Backlight -/

/-- R180 and R181: SET_BACKLIGHT writes the state bit and then one expander byte, with no wait. -/
def Obligations.SetBacklightWritesOneByte : Prop :=
  ∀ (s : State) (v : Bool), s.AnswersOk 1 →
    exec (.setBacklight v) s =
      .next { s.afterEvents [.write s.cfg.addr (compose s.params.pins 0x0#4 false false v)] with
        backlight := v, pc := s.pc + 1 }

/-- R180 and D16: after a failed write the new backlight state is held. -/
def Obligations.FailedSetBacklightKeepsTheNewState : Prop :=
  ∀ (s : State) (v : Bool) (b : Byte), b = compose s.params.pins 0x0#4 false false v → s.answerAt 0 = .fail →
    exec (.setBacklight v) s = .next { s.afterFailedWrite 0 [.write s.cfg.addr b] b with backlight := v }

/-- R183: what GET_BACKLIGHT answers after SET_BACKLIGHT 1, and after SET_BACKLIGHT 1 then 0. -/
def Obligations.BacklightLaw : Prop :=
  ∀ s : State, s.halted = false → s.AnswersOk 2 →
    (∃ t, execAll [.setBacklight true, .setBacklight false, .getBacklight] s = .next t ∧
      t.resp = s.resp ++ [0x0000] ∧ t.backlight = false ∧ t.faults = s.faults) ∧
    (∃ t, execAll [.setBacklight true, .getBacklight] s = .next t ∧
      t.resp = s.resp ++ [0x0001] ∧ t.backlight = true ∧ t.faults = s.faults)

/-! ## Text and glyphs -/

/-- R191: PRINT_CHAR sends the code as data and moves the column on by one, clamped; the row and the mode register
have no part in it. -/
def Obligations.PrintCharSendsAndAdvances : Prop :=
  ∀ (s : State) (code c0 : Byte), s.cursorCol = some c0 → s.AnswersOk 6 →
    exec (.printChar code) s = .next { s.afterEvents (sendEvents s code .data) with
      cursorCol := some (BitVec.ofNat 8 (min (c0.toNat + 1) (s.cfg.cols.toNat - 1))), pc := s.pc + 1 }

/-- R192: the pseudo-instruction PRINT of a text of `k` characters, run by `k` steps from a clamped cursor, sends
exactly the `k` character codes in order and moves the column by `k`, clamped; the row stays. -/
def Obligations.PrintSendsEachCharacterAndAdvances : Prop :=
  ∀ (s : State) (text : List Char) (is : List Instr) (rest : List Word) (c0 r0 : Byte),
    printExpansion text = some is → s.halted = false → s.prog.drop s.pc = is.flatMap encode ++ rest →
    s.cursorCol = some c0 → s.cursorRow = some r0 → c0.toNat ≤ s.cfg.cols.toNat - 1 →
    s.AnswersOk (6 * text.length) →
    Host.Core.run Sys2Proof.core text.length s =
      .next { s.afterEvents (text.flatMap fun ch => sendEvents s (BitVec.ofNat 8 ch.toNat) .data) with
        cursorCol := some (BitVec.ofNat 8 (min (c0.toNat + text.length) (s.cfg.cols.toNat - 1)))
        cursorRow := some r0, pc := s.pc + text.length }

/-- R193 and R194, the switch off: the slot's CGRAM address and then each byte unmasked, for every number of bytes;
the cursor and the registers do not change. -/
def Obligations.CreateCharSendsTheGlyph : Prop :=
  ∀ (s : State) (location : Byte) (charmap : List Byte), s.params.createCharRestores = false →
    s.AnswersOk (6 * (1 + charmap.length)) →
    exec (.createChar location charmap) s =
      .next { s.afterEvents (glyphEvents s location charmap) with pc := s.pc + 1 + charmap.length }

/-- R193, the switch on: the glyph, and then the DDRAM address of the cursor, which itself does not change. -/
def Obligations.CreateCharWithRestoreEndsWithTheCursorAddress : Prop :=
  ∀ (s : State) (location : Byte) (charmap : List Byte) (c r : Byte), s.params.createCharRestores = true →
    s.rowOffset = rowOffsetTable s.cfg.rows s.cfg.cols → s.cursorCol = some c → s.cursorRow = some r →
    r.toNat ≤ s.cfg.rows.toNat - 1 → s.AnswersOk (6 * (2 + charmap.length)) →
    exec (.createChar location charmap) s =
      .next { s.afterEvents (glyphEvents s location charmap ++
          sendEvents s (ddramByte s.cfg r.toNat c.toNat) .command) with pc := s.pc + 1 + charmap.length }

/-- R193 and R71, with and without the restore: a failed write leaves the glyph partly written and changes no shadow
field. -/
def Obligations.FailedCreateCharStopsAtThatWrite : Prop :=
  ∀ (s : State) (location : Byte) (charmap : List Byte) (es : List Event) (j : Nat) (b : Byte),
    ((s.params.createCharRestores = false ∧ es = glyphEvents s location charmap) ∨
      (s.params.createCharRestores = true ∧ s.rowOffset = rowOffsetTable s.cfg.rows s.cfg.cols ∧
        ∃ c r : Byte, s.cursorCol = some c ∧ s.cursorRow = some r ∧ r.toNat ≤ s.cfg.rows.toNat - 1 ∧
          es = glyphEvents s location charmap ++ sendEvents s (ddramByte s.cfg r.toNat c.toNat) .command)) →
    j < writeCount es → s.AnswersOk j → s.answerAt j = .fail → writeByte j es = some b →
    exec (.createChar location charmap) s = .next (s.afterFailedWrite j es b)

/-! ## Queries -/

/-- R182 and R200 to R204: each query appends its value to the responses and advances, and nothing else changes. -/
def Obligations.QueriesRespondAndChangeNothingElse : Prop :=
  ∀ (s : State) (i : Instr) (v : Response),
    ((i = .getBacklight ∧ v = (if s.backlight then 1 else 0)) ∨
      (∃ c r, i = .getCursor ∧ s.cursorCol = some c ∧ s.cursorRow = some r ∧ v = c ++ r) ∨
      (i = .getFunction ∧ v = (readFunction s).setWidth 16) ∨
      (∃ x, i = .getControl ∧ readControl s = some x ∧ v = x.setWidth 16) ∨
      (∃ x, i = .getMode ∧ readMode s = some x ∧ v = x.setWidth 16)) →
    exec i s = .next { s with resp := s.resp ++ [v], pc := s.pc + 1 }

/-- R202 and R203: GET_CONTROL and GET_MODE, by their words, answer the register zero-extended to 16 bits with no bus
event, and fault where it is `UNSPEC`. What they answer is the stored shadow value, whose hard-wired bits are 0. -/
def Obligations.RegisterQueriesAnswerOrFault : Prop :=
  decode [0x52000000#32] = .decoded .getControl [] ∧ decode [0x53000000#32] = .decoded .getMode [] ∧
  ∀ s : State,
    (s.controlReg = none → exec .getControl s = .next (s.afterUninitRead .control)) ∧
    (∀ v, readControl s = some v →
      exec .getControl s = .next { s with resp := s.resp ++ [v.setWidth 16], pc := s.pc + 1 }) ∧
    (∀ v, s.controlReg = some v → v &&& 0xF8 = 0 →
      exec .getControl s = .next { s with resp := s.resp ++ [v.setWidth 16], pc := s.pc + 1 }) ∧
    (s.modeReg = none → exec .getMode s = .next (s.afterUninitRead .mode)) ∧
    (∀ v, readMode s = some v →
      exec .getMode s = .next { s with resp := s.resp ++ [v.setWidth 16], pc := s.pc + 1 }) ∧
    (∀ v, s.modeReg = some v → v &&& 0xFC = 0 →
      exec .getMode s = .next { s with resp := s.resp ++ [v.setWidth 16], pc := s.pc + 1 })

/-- R201, R33 and R34: GET_FUNCTION answers the construction value, from every state that holds it. -/
def Obligations.GetFunctionAnswersTheConstructionValue : Prop :=
  ∀ s : State, s.functionReg = functionInit s.cfg.rows s.cfg.charsize →
    ∃ t, exec .getFunction s = .next t ∧ t.resp = s.resp ++
      [(if s.cfg.rows.toNat ≥ 2 then 0x0008 else 0x0000) ||| (if s.cfg.charsize = .dots5x10 then 0x0004 else 0x0000)]

/-- R33, R35 and R36: the hard-wired bits of the three registers read 0 in every state, and every other bit reads as
it is stored; a register reads as `UNSPEC` exactly where it is. Masking at the read too is the model's choice
(log 11). -/
def Obligations.HardwiredBitsReadZero : Prop :=
  ∀ s : State, readFunction s &&& 0xF3 = 0 ∧ (∀ v, readControl s = some v → v &&& 0xF8 = 0) ∧
    (∀ v, readMode s = some v → v &&& 0xFC = 0) ∧
    (∀ k, (readFunction s).getLsbD k = (decide (k = 2 ∨ k = 3) && s.functionReg.getLsbD k)) ∧
    (s.controlReg = none → readControl s = none) ∧
    (∀ v, s.controlReg = some v →
      ∃ x, readControl s = some x ∧ ∀ k, x.getLsbD k = (decide (k ≤ 2) && v.getLsbD k)) ∧
    (s.modeReg = none → readMode s = none) ∧
    (∀ v, s.modeReg = some v → ∃ x, readMode s = some x ∧ ∀ k, x.getLsbD k = (decide (k ≤ 1) && v.getLsbD k))

/-! ## The assembler -/

/-- R100: the pseudo-instructions' lines assemble to their expansions. A PRINT line expands as its quoted text does,
for every text without a double quote (texts have no escapes, log 16), and a text to one PRINT_CHAR a character in
order, refused exactly when a code is above `0xFF`. -/
def Obligations.PseudoInstructionsExpand : Prop :=
  assembleLine "BACKLIGHT" = some [.setBacklight true] ∧ assembleLine "NO_BACKLIGHT" = some [.setBacklight false] ∧
  assembleLine "CURSOR_POSITION" = some [.getCursor] ∧ assembleLine "PRINT \"\"" = some [] ∧
  (∀ text : String, '"' ∉ text.toList →
    assembleLine ("PRINT \"" ++ text ++ "\"") = printExpansion text.toList) ∧
  (∀ text : List Char, (∀ ch ∈ text, ch.toNat ≤ 0xFF) →
    printExpansion text = some (text.map fun ch => .printChar (BitVec.ofNat 8 ch.toNat))) ∧
  (∀ text : List Char, (∃ ch ∈ text, ch.toNat > 0xFF) → printExpansion text = none)

/-- R99: a line that spells an operation assembles to it: each mnemonic without operands, and each with operands to the
operation with those values in that order, whatever numerals spell them. Whatever a line assembles to has an encoding,
and an operand that does not fit its field is refused: a number above 255 in any operand, a backlight value other than 0
or 1, a charmap of more than 255 entries, and a minus sign anywhere outside a text or comment. A `;` outside a text
starts a comment, which stands for nothing. -/
def Obligations.AssembledLinesAreWellFormed : Prop :=
  (∀ (name : String) (i : Instr),
    (name, i) ∈ [("DISPLAY", Instr.display), ("NO_DISPLAY", .noDisplay), ("CURSOR", .cursor), ("NO_CURSOR", .noCursor),
      ("BLINK", .blink), ("NO_BLINK", .noBlink), ("LEFT_TO_RIGHT", .leftToRight), ("RIGHT_TO_LEFT", .rightToLeft),
      ("AUTOSCROLL", .autoscroll), ("NO_AUTOSCROLL", .noAutoscroll), ("HOME", .home), ("CLEAR", .clear)] ++
      [("BEGIN", .begin), ("GET_BACKLIGHT", .getBacklight), ("SCROLL_DISPLAY_LEFT", .scrollDisplayLeft),
      ("SCROLL_DISPLAY_RIGHT", .scrollDisplayRight), ("GET_CURSOR", .getCursor), ("GET_FUNCTION", .getFunction),
      ("GET_CONTROL", .getControl), ("GET_MODE", .getMode)] →
    assembleLine name = some [i]) ∧
  (∀ (v w : String) (m n : Byte), numberValue v.toList = some m.toNat → numberValue w.toList = some n.toNat →
    assembleLine ("SEND " ++ v ++ ", CMD") = some [.send m .command] ∧
    assembleLine ("SEND " ++ v ++ ", DATA") = some [.send m .data] ∧
    assembleLine ("SET_CURSOR " ++ v ++ ", " ++ w) = some [.setCursor m n] ∧
    assembleLine ("PRINT_CHAR " ++ v) = some [.printChar m] ∧
    (m = 0 → assembleLine ("SET_BACKLIGHT " ++ v) = some [.setBacklight false]) ∧
    (m = 1 → assembleLine ("SET_BACKLIGHT " ++ v) = some [.setBacklight true])) ∧
  (∀ (v : String) (ws : List String) (l : Byte) (bs : List Byte), numberValue v.toList = some l.toNat →
    ws.map (fun w => numberValue w.toList) = bs.map (fun b => some b.toNat) → bs.length ≤ 255 →
    assembleLine ("CREATE_CHAR " ++ v ++ ", [" ++ ", ".intercalate ws ++ "]") = some [.createChar l bs]) ∧
  (∀ (ts : List Token) (is : List Instr), parseLine ts = some is → ∀ i ∈ is, i.WellFormed) ∧
  (∀ (cs : List Char) (n : Nat), numberValue cs = some n →
    byteOperand cs = (if n ≤ 255 then some (BitVec.ofNat 8 n) else none) ∧
    bitOperand cs = (if n = 0 then some false else if n = 1 then some true else none)) ∧
  (∀ (m : List Char) (ts : List Token) (is : List Instr), parseLine (.word m :: ts) = some is →
    ∀ (w : List Char) (n : Nat), .word w ∈ ts → numberValue w = some n → n ≤ 255) ∧
  (∀ (w : List Char) (n : Nat), numberValue w = some n → n > 1 →
    parseLine [.word "SET_BACKLIGHT".toList, .word w] = none) ∧
  (∀ (l : List Char) (ws : List (List Char)), ws.length > 255 →
    operandForm .createChar
      (.word l :: .comma :: .openBracket :: ((ws.map Token.word).intersperse .comma ++ [.closeBracket])) = none) ∧
  (∀ (quoted : List (List Char × List Char)) (before after : List Char),
    (∀ x ∈ quoted, '"' ∉ x.1 ∧ ';' ∉ x.1 ∧ '"' ∉ x.2) → '"' ∉ before → ';' ∉ before →
    assembleLine (String.ofList
      (quoted.flatMap (fun x => x.1 ++ '"' :: x.2 ++ ['"']) ++ before ++ '-' :: after)) = none ∧
    assembleLine (String.ofList
      (quoted.flatMap (fun x => x.1 ++ '"' :: x.2 ++ ['"']) ++ before ++ ';' :: after)) =
    assembleLine (String.ofList (quoted.flatMap (fun x => x.1 ++ '"' :: x.2 ++ ['"']) ++ before)))

/-- R99: "numbers in decimal or `0x` hexadecimal": the decimal and the hexadecimal digits of every number are read as
that number, in capital letters as the spec's examples write them; that each letter may be small or capital is the
model's choice (log 16). -/
def Obligations.NumbersAreReadInBothBases : Prop :=
  ∀ n : Nat, numberValue (Nat.toDigits 10 n) = some n ∧
    numberValue ('0' :: 'x' :: (Nat.toDigits 16 n).map Char.toUpper) = some n ∧
    ∀ cs : List Char, cs.map Char.toUpper = (Nat.toDigits 16 n).map Char.toUpper →
      numberValue ('0' :: 'x' :: cs) = some n

/-! ## Whole-machine rules -/

/-- R214, R211, R213 and R218: an operation either ends without a fault, with the pc past its words, or takes exactly
one fault, with the pc unmoved and the block halted: a `TransportFailure` of the last event's byte with the latch
unknown, or an `UninitRead` with no other effect at all. -/
def Obligations.OperationEndsOrTakesOneFault : Prop :=
  ∀ (i : Instr) (s : State), ∃ t, exec i s = .next t ∧
    ((t.faults = s.faults ∧ t.halted = s.halted ∧ t.pc = s.pc + i.length) ∨
     (∃ b, t.faults = s.faults ++ [(s.pc, .transportFailure b)] ∧ t.halted = true ∧ t.pc = s.pc ∧
        t.trace.getLast? = some (.write s.cfg.addr b) ∧ t.latch = none) ∨
     (∃ name, t = s.afterUninitRead name))

/-- R16 and R210: the status code after a step. It is 0 where no fault was raised, and otherwise the code of the fault
that was: 1 for a `TransportFailure`, whose write is the last event, 2 for the `IllegalOp` of a word that decode
refuses, 3 for an `UninitRead`. An operation's own status is the code in the state it leaves. -/
def Obligations.StatusCodeTellsTheFaultTaken : Prop :=
  (∀ s t : State, step s = .next t →
    (t.faults = s.faults ∧ (t.faults = [] → statusCode t = 0)) ∨
    (∃ b, t.faults = s.faults ++ [(s.pc, .transportFailure b)] ∧ statusCode t = 1 ∧
      t.trace.getLast? = some (.write s.cfg.addr b)) ∨
    (∃ w, t.faults = s.faults ++ [(s.pc, .illegalOp w)] ∧ statusCode t = 2 ∧
      decode (s.prog.drop s.pc) = .illegal w) ∨
    (∃ name, t = s.afterUninitRead name ∧ statusCode t = 3)) ∧
  (∀ p : Progress, (∀ s, p = .ok s → s.faults = []) → statusCode p.settle = p.status)

/-- R47 and the state table of 10_state.md: which operations may change which field. -/
def Obligations.EachFieldIsWrittenOnlyByItsOperations : Prop :=
  ∀ (i : Instr) (s t : State), exec i s = .next t →
    t.cfg = s.cfg ∧ t.params = s.params ∧ t.rowOffset = s.rowOffset ∧ t.functionReg = s.functionReg ∧
    t.prog = s.prog ∧
    (t.controlReg ≠ s.controlReg → i.opcode ∈ [.begin, .display, .noDisplay, .cursor, .noCursor, .blink, .noBlink]) ∧
    (t.modeReg ≠ s.modeReg → i.opcode ∈ [.begin, .leftToRight, .rightToLeft, .autoscroll, .noAutoscroll]) ∧
    (t.cursorCol ≠ s.cursorCol → i.opcode ∈ [.setCursor, .home, .clear, .begin, .printChar]) ∧
    (t.cursorRow ≠ s.cursorRow → i.opcode ∈ [.setCursor, .home, .clear, .begin]) ∧
    (t.backlight ≠ s.backlight → i.opcode = .setBacklight) ∧
    (t.resp ≠ s.resp → i.opcode ∈ [.getBacklight, .getCursor, .getFunction, .getControl, .getMode]) ∧
    ((t.trace ≠ s.trace ∨ t.latch ≠ s.latch) →
      i.opcode ∉ [.getBacklight, .getCursor, .getFunction, .getControl, .getMode])

/-- R30, R31, R34, R41, R42 and R78: no step writes the configuration, the row table, the function register or the
stream, and the trace, the responses and the fault log only grow at their end. -/
def Obligations.StepOnlyExtendsTheObservation : Prop :=
  ∀ s t : State, step s = .next t →
    t.cfg = s.cfg ∧ t.params = s.params ∧ t.rowOffset = s.rowOffset ∧ t.functionReg = s.functionReg ∧
    t.prog = s.prog ∧ s.trace <+: t.trace ∧ s.resp <+: t.resp ∧ s.faults <+: t.faults

/-- R61: every write a step makes goes to the block's own device address, by default `0x27`. -/
def Obligations.EveryWriteGoesToTheDeviceAddress : Prop :=
  State.reset.cfg.addr = 0x27#7 ∧ ∀ s t : State, step s = .next t →
    ∃ es, t.trace = s.trace ++ es ∧ ∀ a b, Event.write a b ∈ es → a = s.cfg.addr

/-- R126: in every `W` event a step produces the backlight line carries the state's backlight bit, the read/write
line is 0 (R120), and the write goes to `ADDR` (R61). -/
def Obligations.EveryWriteCarriesTheBacklightBit : Prop :=
  ∀ s t : State, s.params.pins.wf → step s = .next t →
    ∃ es, t.trace = s.trace ++ es ∧ ∀ a b, Event.write a b ∈ es →
      a = s.cfg.addr ∧ b.getLsbD s.params.pins.bl.val = t.backlight ∧ b.getLsbD s.params.pins.rw.val = false

/-- R252: the first write of every operation has the enable line de-asserted. -/
def Obligations.FirstWriteOfAnOperationLowersEnable : Prop :=
  ∀ (i : Instr) (s t : State) (es : List Event) (b : Byte), s.params.pins.wf → exec i s = .next t →
    t.trace = s.trace ++ es → firstWrite es = some b → b.getLsbD s.params.pins.en.val = false

/-- R253: the writes, the waits and the sum of minimum waits of every operation that ends without a fault, with the
default waits and command codes. -/
def Obligations.OperationCosts : Prop :=
  ∀ (i : Instr) (s t : State) (es : List Event), s.params.timing = defaultTiming → s.params.codes = defaultCodes →
    exec i s = .next t → t.faults = s.faults → t.trace = s.trace ++ es →
    (writeCount es, waitCount es, waitSum es) = operationCost s.params.createCharRestores i

/-- R215 with R40: from a reachable running state the run has completed, has faulted, or is stuck after at most as
many steps as words remain and one more. The one more is the step that completes the run, which is the model's choice
(log 8). -/
def Obligations.EveryRunEndsInOneOfThreeWays : Prop :=
  ∀ s : State, s.Inv → s.halted = false →
    ∃ k t, k ≤ s.prog.length - s.pc + 1 ∧ Host.Core.run Sys2Proof.core k s = .next t ∧
      ((runStatus t = .completed ∧ t.halted = true) ∨ (runStatus t = .faulted ∧ t.halted = true) ∨
       (runStatus t = .stuck ∧ step t = .fault .stuckShortStream))

/-! ## The invariant -/

/-- The state after reset, whose 2 rows of 16 columns are the model's choice (log 2), meets the invariant. -/
def Obligations.ResetMeetsTheInvariant : Prop := State.reset.Inv

/-- Every block that construction accepts, on every legal pin map, meets the invariant, and so does its launch. -/
def Obligations.ConstructedBlocksMeetTheInvariant : Prop :=
  ∀ (q : ConfigRequest) (params : Params) (s : State) (ws : List Word), params.pins.wf →
    constructBlock q params = .ok s → s.Inv ∧ (launch ws s).Inv

/-- Every step keeps the invariant. -/
def Obligations.StepKeepsTheInvariant : Prop := ∀ s t : State, s.Inv → step s = .next t → t.Inv
end

