-- ==== Sys2Proof/Laws/Assembler.lean ====
section
/-! SUPPORT. What the assembler's parts do: digits, words, quoted text, charmap entries. Proofs about lines cite these and
do not unfold the lexer or the operand readers. -/

namespace Sys2Proof.Laws

open Sys2Proof.Machine

/-- A decimal digit has its value. -/
theorem digitIn_ten {d : Nat} (h : d < 10) : digitIn 10 (Nat.digitChar d) = some d := by
  interval_cases d <;> decide

/-- A hexadecimal digit, as a small letter from ten on, has its value. -/
theorem digitIn_sixteen {d : Nat} (h : d < 16) : digitIn 16 (Nat.digitChar d) = some d := by
  interval_cases d <;> decide

/-- One more digit shifts the number read so far by one place. -/
theorem positional_concat (base : Nat) (cs : List Char) (c : Char) :
    positional base (cs ++ [c]) = (positional base cs).bind fun n => (digitIn base c).map (n * base + ·) := by
  unfold positional
  rw [List.foldlM_append]
  cases List.foldlM (fun n c => (digitIn base c).map (n * base + ·)) 0 cs <;> simp

/-- A text without a double quote in it is one token, up to the quote that closes it. -/
theorem lexLine_text {cs rest acc : List Char} (h : '"' ∉ cs) :
    lexLine (.inText acc) (cs ++ '"' :: rest) =
      (lexLine .between rest).map (.text (acc.reverse ++ cs) :: ·) := by
  induction cs generalizing acc with
  | nil => simp [lexLine]
  | cons c cs ih =>
    simp only [List.mem_cons, not_or] at h
    simp [lexLine, Ne.symm h.1, ih h.2]

/-- A charmap's tokens after its open bracket. -/
theorem charmapTail_length {ws : List (List Char)} {bs : List Byte}
    (h : charmapTail ((ws.map Token.word).intersperse .comma ++ [.closeBracket]) = some bs) :
    bs.length = ws.length := by
  induction ws generalizing bs with
  | nil => simp [charmapTail] at h
  | cons w ws ih =>
    cases ws with
    | nil =>
      simp only [List.map_cons, List.map_nil, List.intersperse_singleton, List.singleton_append, charmapTail,
        Option.map_eq_some_iff] at h
      obtain ⟨b, -, rfl⟩ := h
      rfl
    | cons w' ws =>
      simp only [List.map_cons, List.intersperse_cons_cons, List.cons_append, charmapTail] at h ih
      split at h
      · rename_i hb
        cases h
        simp [ih hb]
      · cases h
      · cases h

/-- A digit of any base may stand in a word. -/
theorem isWordChar_of_digit {base : Nat} {c : Char} {d : Nat} (h : digitIn base c = some d) : isWordChar c = true := by
  have hm : c.toUpper ∈ digitOrder := by
    refine List.mem_of_mem_take (i := base) ?_
    by_contra hn
    rw [digitIn, List.idxOf?_eq_none_iff.2 hn] at h
    cases h
  by_cases hl : c.isLower = true
  · simp [isWordChar, Char.isAlphanum, Char.isAlpha, hl]
  · have : c.toUpper = c := by
      unfold Char.toUpper
      unfold Char.isLower at hl
      simp at hl
      split
      · rename_i hh; simp at hh; exact absurd hh.2 (by simpa using hl hh.1)
      · rfl
    rw [this] at hm
    exact List.all_eq_true.1 (by decide : digitOrder.all isWordChar = true) c hm

/-- So may every character of digits that spell a number. -/
theorem positional_wordChars {base : Nat} {cs : List Char} {n : Nat} (h : positional base cs = some n) :
    ∀ c ∈ cs, isWordChar c = true := by
  induction cs using List.reverseRecOn generalizing n with
  | nil => simp
  | append_singleton cs c ih =>
    rw [positional_concat] at h
    obtain ⟨m, hm, h⟩ := Option.bind_eq_some_iff.1 h
    obtain ⟨d, hd, -⟩ := Option.map_eq_some_iff.1 h
    intro x hx
    rcases List.mem_append.1 hx with hx | hx
    · exact ih hm x hx
    · rw [List.mem_singleton.1 hx]; exact isWordChar_of_digit hd

/-- What spells a number is one word: not empty, and of word characters only. -/
theorem numberValue_wordChars {cs : List Char} {n : Nat} (h : numberValue cs = some n) :
    cs ≠ [] ∧ ∀ c ∈ cs, isWordChar c = true := by
  unfold numberValue at h
  split at h
  · cases h
  · cases h
  · rename_i cs _
    have := positional_wordChars h
    simpa [show isWordChar '0' = true by decide, show isWordChar 'x' = true by decide] using this
  · rename_i h0 _ _
    exact ⟨h0, positional_wordChars h⟩

/-- A word character is no punctuation of the syntax. -/
theorem wordChar_ne {c : Char} (h : isWordChar c = true) :
    c ≠ ';' ∧ c ≠ ' ' ∧ c ≠ '\t' ∧ c ≠ ',' ∧ c ≠ '[' ∧ c ≠ ']' ∧ c ≠ '"' := by
  refine ⟨?_, ?_, ?_, ?_, ?_, ?_, ?_⟩ <;> (rintro rfl; revert h; decide)

/-- Word characters go on a word. -/
theorem lexLine_inWord {cs rest acc : List Char} (h : ∀ c ∈ cs, isWordChar c = true) :
    lexLine (.inWord acc) (cs ++ rest) = lexLine (.inWord (cs.reverse ++ acc)) rest := by
  induction cs generalizing acc with
  | nil => rfl
  | cons c cs ih =>
    have hc := h c (by simp)
    obtain ⟨h1, h2, h3, h4, h5, h6, h7⟩ := wordChar_ne hc
    simp [lexLine, h1, h2, h3, h4, h5, h6, h7, hc, ih fun x hx => h x (by simp [hx])]

/-- Word characters between tokens make a word. -/
theorem lexLine_word {cs rest : List Char} (h0 : cs ≠ []) (h : ∀ c ∈ cs, isWordChar c = true) :
    lexLine .between (cs ++ rest) = lexLine (.inWord cs.reverse) rest := by
  cases cs with
  | nil => exact absurd rfl h0
  | cons c cs =>
    have hc := h c (by simp)
    obtain ⟨h1, h2, h3, h4, h5, h6, h7⟩ := wordChar_ne hc
    simp [lexLine, h1, h2, h3, h4, h5, h6, h7, hc, lexLine_inWord (fun x hx => h x (List.mem_cons_of_mem _ hx))]

/-! What each punctuation does after a word and between tokens. -/

@[simp] theorem lexLine_word_end (acc : List Char) : lexLine (.inWord acc) [] = some [.word acc.reverse] := by
  simp [lexLine, endWord]

@[simp] theorem lexLine_word_space (acc cs : List Char) :
    lexLine (.inWord acc) (' ' :: cs) = (lexLine .between cs).map (.word acc.reverse :: ·) := by
  simp [lexLine]; rfl

@[simp] theorem lexLine_word_comma (acc cs : List Char) :
    lexLine (.inWord acc) (',' :: cs) = (lexLine .between cs).map (.word acc.reverse :: .comma :: ·) := by
  simp [lexLine, endWord]

@[simp] theorem lexLine_word_close (acc cs : List Char) :
    lexLine (.inWord acc) (']' :: cs) = (lexLine .between cs).map (.word acc.reverse :: .closeBracket :: ·) := by
  simp [lexLine, endWord]

@[simp] theorem lexLine_end : lexLine .between [] = some [] := rfl

@[simp] theorem lexLine_space (cs : List Char) : lexLine .between (' ' :: cs) = lexLine .between cs := by
  simp [lexLine]; cases lexLine .between cs <;> rfl

@[simp] theorem lexLine_open (cs : List Char) :
    lexLine .between ('[' :: cs) = (lexLine .between cs).map (.openBracket :: ·) := by
  simp [lexLine, endWord]

@[simp] theorem lexLine_close (cs : List Char) :
    lexLine .between (']' :: cs) = (lexLine .between cs).map (.closeBracket :: ·) := by
  simp [lexLine, endWord]

/-- The tokens of a charmap's entries as R99 writes them, up to the close bracket. -/
theorem lexLine_entries {ws : List (List Char)} (h : ∀ w ∈ ws, w ≠ [] ∧ ∀ c ∈ w, isWordChar c = true) :
    lexLine .between ([',', ' '].intercalate ws ++ [']']) =
      some ((ws.map Token.word).intersperse .comma ++ [.closeBracket]) := by
  induction ws with
  | nil => simp [List.intercalate]
  | cons w ws ih =>
    have hw := h w (by simp)
    cases ws with
    | nil => simp [List.intercalate, lexLine_word hw.1 hw.2]
    | cons w' ws =>
      rw [show [',', ' '].intercalate (w :: w' :: ws) = w ++ (',' :: ' ' :: [',', ' '].intercalate (w' :: ws)) by
        simp [List.intercalate]]
      rw [List.append_assoc, lexLine_word hw.1 hw.2]
      simp only [List.cons_append, lexLine_word_comma, lexLine_space, List.reverse_reverse]
      rw [ih fun x hx => h x (List.mem_cons_of_mem _ hx)]
      simp

/-- A number that is a byte is read as that byte. -/
theorem byteOperand_of {cs : List Char} {b : Byte} (h : numberValue cs = some b.toNat) : byteOperand cs = some b := by
  have : b.toNat ≤ 255 := by have := b.isLt; omega
  simp [byteOperand, h, this]

/-- Entries that spell bytes are read as those bytes, in order. -/
theorem charmapTail_entries {ws : List (List Char)} {bs : List Byte} (h0 : ws ≠ [])
    (h : ws.map numberValue = bs.map fun b => some b.toNat) :
    charmapTail ((ws.map Token.word).intersperse .comma ++ [.closeBracket]) = some bs := by
  induction ws generalizing bs with
  | nil => exact absurd rfl h0
  | cons w ws ih =>
    cases bs with
    | nil => simp at h
    | cons b bs =>
      simp only [List.map_cons, List.cons.injEq] at h
      cases ws with
      | nil =>
        have : bs = [] := by simpa using h.2.symm
        simp [charmapTail, byteOperand_of h.1, this]
      | cons w' ws =>
        have := ih (by simp) h.2
        simp only [List.map_cons, List.intersperse_cons_cons, List.cons_append, charmapTail] at this ⊢
        rw [byteOperand_of h.1, this]

/-- So is a whole charmap, the empty one too. -/
theorem charmapOperand_entries {ws : List (List Char)} {bs : List Byte}
    (h : ws.map numberValue = bs.map fun b => some b.toNat) :
    charmapOperand ((ws.map Token.word).intersperse .comma ++ [.closeBracket]) = some bs := by
  cases ws with
  | nil => have : bs = [] := by simpa using h.symm
           simp [charmapOperand, this]
  | cons w ws =>
    rw [← charmapTail_entries (by simp) h]
    unfold charmapOperand
    split
    · rename_i e; cases ws <;> simp at e
    · rfl

end Sys2Proof.Laws
end

