-- ==== Sys2Proof/Laws/State.lean ====
section
/-! SUPPORT. One lemma per field per update of State, each true by rfl, so that no later proof unfolds a record
update. -/

namespace Sys2Proof.Laws

open Sys2Proof.Machine

/-! ## `writeControl` -/

@[simp] theorem writeControl_cfg (v : Byte) (s : State) :
    (writeControl v s).cfg = s.cfg := rfl
@[simp] theorem writeControl_params (v : Byte) (s : State) :
    (writeControl v s).params = s.params := rfl
@[simp] theorem writeControl_rowOffset (v : Byte) (s : State) :
    (writeControl v s).rowOffset = s.rowOffset := rfl
@[simp] theorem writeControl_functionReg (v : Byte) (s : State) :
    (writeControl v s).functionReg = s.functionReg := rfl
@[simp] theorem writeControl_controlReg (v : Byte) (s : State) :
    (writeControl v s).controlReg = some (v &&& controlBits) := rfl
@[simp] theorem writeControl_modeReg (v : Byte) (s : State) :
    (writeControl v s).modeReg = s.modeReg := rfl
@[simp] theorem writeControl_cursorCol (v : Byte) (s : State) :
    (writeControl v s).cursorCol = s.cursorCol := rfl
@[simp] theorem writeControl_cursorRow (v : Byte) (s : State) :
    (writeControl v s).cursorRow = s.cursorRow := rfl
@[simp] theorem writeControl_backlight (v : Byte) (s : State) :
    (writeControl v s).backlight = s.backlight := rfl
@[simp] theorem writeControl_latch (v : Byte) (s : State) :
    (writeControl v s).latch = s.latch := rfl
@[simp] theorem writeControl_pc (v : Byte) (s : State) :
    (writeControl v s).pc = s.pc := rfl
@[simp] theorem writeControl_prog (v : Byte) (s : State) :
    (writeControl v s).prog = s.prog := rfl
@[simp] theorem writeControl_trace (v : Byte) (s : State) :
    (writeControl v s).trace = s.trace := rfl
@[simp] theorem writeControl_resp (v : Byte) (s : State) :
    (writeControl v s).resp = s.resp := rfl
@[simp] theorem writeControl_faults (v : Byte) (s : State) :
    (writeControl v s).faults = s.faults := rfl
@[simp] theorem writeControl_halted (v : Byte) (s : State) :
    (writeControl v s).halted = s.halted := rfl
@[simp] theorem writeControl_answers (v : Byte) (s : State) :
    (writeControl v s).answers = s.answers := rfl
@[simp] theorem writeControl_drawn (v : Byte) (s : State) :
    (writeControl v s).drawn = s.drawn := rfl

/-! ## `writeMode` -/

@[simp] theorem writeMode_cfg (v : Byte) (s : State) :
    (writeMode v s).cfg = s.cfg := rfl
@[simp] theorem writeMode_params (v : Byte) (s : State) :
    (writeMode v s).params = s.params := rfl
@[simp] theorem writeMode_rowOffset (v : Byte) (s : State) :
    (writeMode v s).rowOffset = s.rowOffset := rfl
@[simp] theorem writeMode_functionReg (v : Byte) (s : State) :
    (writeMode v s).functionReg = s.functionReg := rfl
@[simp] theorem writeMode_controlReg (v : Byte) (s : State) :
    (writeMode v s).controlReg = s.controlReg := rfl
@[simp] theorem writeMode_modeReg (v : Byte) (s : State) :
    (writeMode v s).modeReg = some (v &&& modeBits) := rfl
@[simp] theorem writeMode_cursorCol (v : Byte) (s : State) :
    (writeMode v s).cursorCol = s.cursorCol := rfl
@[simp] theorem writeMode_cursorRow (v : Byte) (s : State) :
    (writeMode v s).cursorRow = s.cursorRow := rfl
@[simp] theorem writeMode_backlight (v : Byte) (s : State) :
    (writeMode v s).backlight = s.backlight := rfl
@[simp] theorem writeMode_latch (v : Byte) (s : State) :
    (writeMode v s).latch = s.latch := rfl
@[simp] theorem writeMode_pc (v : Byte) (s : State) :
    (writeMode v s).pc = s.pc := rfl
@[simp] theorem writeMode_prog (v : Byte) (s : State) :
    (writeMode v s).prog = s.prog := rfl
@[simp] theorem writeMode_trace (v : Byte) (s : State) :
    (writeMode v s).trace = s.trace := rfl
@[simp] theorem writeMode_resp (v : Byte) (s : State) :
    (writeMode v s).resp = s.resp := rfl
@[simp] theorem writeMode_faults (v : Byte) (s : State) :
    (writeMode v s).faults = s.faults := rfl
@[simp] theorem writeMode_halted (v : Byte) (s : State) :
    (writeMode v s).halted = s.halted := rfl
@[simp] theorem writeMode_answers (v : Byte) (s : State) :
    (writeMode v s).answers = s.answers := rfl
@[simp] theorem writeMode_drawn (v : Byte) (s : State) :
    (writeMode v s).drawn = s.drawn := rfl

/-! ## `writeCursor` -/

@[simp] theorem writeCursor_cfg (c r : Byte) (s : State) :
    (writeCursor c r s).cfg = s.cfg := rfl
@[simp] theorem writeCursor_params (c r : Byte) (s : State) :
    (writeCursor c r s).params = s.params := rfl
@[simp] theorem writeCursor_rowOffset (c r : Byte) (s : State) :
    (writeCursor c r s).rowOffset = s.rowOffset := rfl
@[simp] theorem writeCursor_functionReg (c r : Byte) (s : State) :
    (writeCursor c r s).functionReg = s.functionReg := rfl
@[simp] theorem writeCursor_controlReg (c r : Byte) (s : State) :
    (writeCursor c r s).controlReg = s.controlReg := rfl
@[simp] theorem writeCursor_modeReg (c r : Byte) (s : State) :
    (writeCursor c r s).modeReg = s.modeReg := rfl
@[simp] theorem writeCursor_cursorCol (c r : Byte) (s : State) :
    (writeCursor c r s).cursorCol = some c := rfl
@[simp] theorem writeCursor_cursorRow (c r : Byte) (s : State) :
    (writeCursor c r s).cursorRow = some r := rfl
@[simp] theorem writeCursor_backlight (c r : Byte) (s : State) :
    (writeCursor c r s).backlight = s.backlight := rfl
@[simp] theorem writeCursor_latch (c r : Byte) (s : State) :
    (writeCursor c r s).latch = s.latch := rfl
@[simp] theorem writeCursor_pc (c r : Byte) (s : State) :
    (writeCursor c r s).pc = s.pc := rfl
@[simp] theorem writeCursor_prog (c r : Byte) (s : State) :
    (writeCursor c r s).prog = s.prog := rfl
@[simp] theorem writeCursor_trace (c r : Byte) (s : State) :
    (writeCursor c r s).trace = s.trace := rfl
@[simp] theorem writeCursor_resp (c r : Byte) (s : State) :
    (writeCursor c r s).resp = s.resp := rfl
@[simp] theorem writeCursor_faults (c r : Byte) (s : State) :
    (writeCursor c r s).faults = s.faults := rfl
@[simp] theorem writeCursor_halted (c r : Byte) (s : State) :
    (writeCursor c r s).halted = s.halted := rfl
@[simp] theorem writeCursor_answers (c r : Byte) (s : State) :
    (writeCursor c r s).answers = s.answers := rfl
@[simp] theorem writeCursor_drawn (c r : Byte) (s : State) :
    (writeCursor c r s).drawn = s.drawn := rfl

/-! ## `writeCursorCol` -/

@[simp] theorem writeCursorCol_cfg (c : Byte) (s : State) :
    (writeCursorCol c s).cfg = s.cfg := rfl
@[simp] theorem writeCursorCol_params (c : Byte) (s : State) :
    (writeCursorCol c s).params = s.params := rfl
@[simp] theorem writeCursorCol_rowOffset (c : Byte) (s : State) :
    (writeCursorCol c s).rowOffset = s.rowOffset := rfl
@[simp] theorem writeCursorCol_functionReg (c : Byte) (s : State) :
    (writeCursorCol c s).functionReg = s.functionReg := rfl
@[simp] theorem writeCursorCol_controlReg (c : Byte) (s : State) :
    (writeCursorCol c s).controlReg = s.controlReg := rfl
@[simp] theorem writeCursorCol_modeReg (c : Byte) (s : State) :
    (writeCursorCol c s).modeReg = s.modeReg := rfl
@[simp] theorem writeCursorCol_cursorCol (c : Byte) (s : State) :
    (writeCursorCol c s).cursorCol = some c := rfl
@[simp] theorem writeCursorCol_cursorRow (c : Byte) (s : State) :
    (writeCursorCol c s).cursorRow = s.cursorRow := rfl
@[simp] theorem writeCursorCol_backlight (c : Byte) (s : State) :
    (writeCursorCol c s).backlight = s.backlight := rfl
@[simp] theorem writeCursorCol_latch (c : Byte) (s : State) :
    (writeCursorCol c s).latch = s.latch := rfl
@[simp] theorem writeCursorCol_pc (c : Byte) (s : State) :
    (writeCursorCol c s).pc = s.pc := rfl
@[simp] theorem writeCursorCol_prog (c : Byte) (s : State) :
    (writeCursorCol c s).prog = s.prog := rfl
@[simp] theorem writeCursorCol_trace (c : Byte) (s : State) :
    (writeCursorCol c s).trace = s.trace := rfl
@[simp] theorem writeCursorCol_resp (c : Byte) (s : State) :
    (writeCursorCol c s).resp = s.resp := rfl
@[simp] theorem writeCursorCol_faults (c : Byte) (s : State) :
    (writeCursorCol c s).faults = s.faults := rfl
@[simp] theorem writeCursorCol_halted (c : Byte) (s : State) :
    (writeCursorCol c s).halted = s.halted := rfl
@[simp] theorem writeCursorCol_answers (c : Byte) (s : State) :
    (writeCursorCol c s).answers = s.answers := rfl
@[simp] theorem writeCursorCol_drawn (c : Byte) (s : State) :
    (writeCursorCol c s).drawn = s.drawn := rfl

/-! ## `writeBacklight` -/

@[simp] theorem writeBacklight_cfg (v : Bool) (s : State) :
    (writeBacklight v s).cfg = s.cfg := rfl
@[simp] theorem writeBacklight_params (v : Bool) (s : State) :
    (writeBacklight v s).params = s.params := rfl
@[simp] theorem writeBacklight_rowOffset (v : Bool) (s : State) :
    (writeBacklight v s).rowOffset = s.rowOffset := rfl
@[simp] theorem writeBacklight_functionReg (v : Bool) (s : State) :
    (writeBacklight v s).functionReg = s.functionReg := rfl
@[simp] theorem writeBacklight_controlReg (v : Bool) (s : State) :
    (writeBacklight v s).controlReg = s.controlReg := rfl
@[simp] theorem writeBacklight_modeReg (v : Bool) (s : State) :
    (writeBacklight v s).modeReg = s.modeReg := rfl
@[simp] theorem writeBacklight_cursorCol (v : Bool) (s : State) :
    (writeBacklight v s).cursorCol = s.cursorCol := rfl
@[simp] theorem writeBacklight_cursorRow (v : Bool) (s : State) :
    (writeBacklight v s).cursorRow = s.cursorRow := rfl
@[simp] theorem writeBacklight_backlight (v : Bool) (s : State) :
    (writeBacklight v s).backlight = v := rfl
@[simp] theorem writeBacklight_latch (v : Bool) (s : State) :
    (writeBacklight v s).latch = s.latch := rfl
@[simp] theorem writeBacklight_pc (v : Bool) (s : State) :
    (writeBacklight v s).pc = s.pc := rfl
@[simp] theorem writeBacklight_prog (v : Bool) (s : State) :
    (writeBacklight v s).prog = s.prog := rfl
@[simp] theorem writeBacklight_trace (v : Bool) (s : State) :
    (writeBacklight v s).trace = s.trace := rfl
@[simp] theorem writeBacklight_resp (v : Bool) (s : State) :
    (writeBacklight v s).resp = s.resp := rfl
@[simp] theorem writeBacklight_faults (v : Bool) (s : State) :
    (writeBacklight v s).faults = s.faults := rfl
@[simp] theorem writeBacklight_halted (v : Bool) (s : State) :
    (writeBacklight v s).halted = s.halted := rfl
@[simp] theorem writeBacklight_answers (v : Bool) (s : State) :
    (writeBacklight v s).answers = s.answers := rfl
@[simp] theorem writeBacklight_drawn (v : Bool) (s : State) :
    (writeBacklight v s).drawn = s.drawn := rfl

/-! ## `advance` -/

@[simp] theorem advance_cfg (n : Nat) (s : State) :
    (advance n s).cfg = s.cfg := rfl
@[simp] theorem advance_params (n : Nat) (s : State) :
    (advance n s).params = s.params := rfl
@[simp] theorem advance_rowOffset (n : Nat) (s : State) :
    (advance n s).rowOffset = s.rowOffset := rfl
@[simp] theorem advance_functionReg (n : Nat) (s : State) :
    (advance n s).functionReg = s.functionReg := rfl
@[simp] theorem advance_controlReg (n : Nat) (s : State) :
    (advance n s).controlReg = s.controlReg := rfl
@[simp] theorem advance_modeReg (n : Nat) (s : State) :
    (advance n s).modeReg = s.modeReg := rfl
@[simp] theorem advance_cursorCol (n : Nat) (s : State) :
    (advance n s).cursorCol = s.cursorCol := rfl
@[simp] theorem advance_cursorRow (n : Nat) (s : State) :
    (advance n s).cursorRow = s.cursorRow := rfl
@[simp] theorem advance_backlight (n : Nat) (s : State) :
    (advance n s).backlight = s.backlight := rfl
@[simp] theorem advance_latch (n : Nat) (s : State) :
    (advance n s).latch = s.latch := rfl
@[simp] theorem advance_pc (n : Nat) (s : State) :
    (advance n s).pc = s.pc + n := rfl
@[simp] theorem advance_prog (n : Nat) (s : State) :
    (advance n s).prog = s.prog := rfl
@[simp] theorem advance_trace (n : Nat) (s : State) :
    (advance n s).trace = s.trace := rfl
@[simp] theorem advance_resp (n : Nat) (s : State) :
    (advance n s).resp = s.resp := rfl
@[simp] theorem advance_faults (n : Nat) (s : State) :
    (advance n s).faults = s.faults := rfl
@[simp] theorem advance_halted (n : Nat) (s : State) :
    (advance n s).halted = s.halted := rfl
@[simp] theorem advance_answers (n : Nat) (s : State) :
    (advance n s).answers = s.answers := rfl
@[simp] theorem advance_drawn (n : Nat) (s : State) :
    (advance n s).drawn = s.drawn := rfl

/-! ## `respond` -/

@[simp] theorem respond_cfg (v : Response) (s : State) :
    (respond v s).cfg = s.cfg := rfl
@[simp] theorem respond_params (v : Response) (s : State) :
    (respond v s).params = s.params := rfl
@[simp] theorem respond_rowOffset (v : Response) (s : State) :
    (respond v s).rowOffset = s.rowOffset := rfl
@[simp] theorem respond_functionReg (v : Response) (s : State) :
    (respond v s).functionReg = s.functionReg := rfl
@[simp] theorem respond_controlReg (v : Response) (s : State) :
    (respond v s).controlReg = s.controlReg := rfl
@[simp] theorem respond_modeReg (v : Response) (s : State) :
    (respond v s).modeReg = s.modeReg := rfl
@[simp] theorem respond_cursorCol (v : Response) (s : State) :
    (respond v s).cursorCol = s.cursorCol := rfl
@[simp] theorem respond_cursorRow (v : Response) (s : State) :
    (respond v s).cursorRow = s.cursorRow := rfl
@[simp] theorem respond_backlight (v : Response) (s : State) :
    (respond v s).backlight = s.backlight := rfl
@[simp] theorem respond_latch (v : Response) (s : State) :
    (respond v s).latch = s.latch := rfl
@[simp] theorem respond_pc (v : Response) (s : State) :
    (respond v s).pc = s.pc := rfl
@[simp] theorem respond_prog (v : Response) (s : State) :
    (respond v s).prog = s.prog := rfl
@[simp] theorem respond_trace (v : Response) (s : State) :
    (respond v s).trace = s.trace := rfl
@[simp] theorem respond_resp (v : Response) (s : State) :
    (respond v s).resp = s.resp ++ [v] := rfl
@[simp] theorem respond_faults (v : Response) (s : State) :
    (respond v s).faults = s.faults := rfl
@[simp] theorem respond_halted (v : Response) (s : State) :
    (respond v s).halted = s.halted := rfl
@[simp] theorem respond_answers (v : Response) (s : State) :
    (respond v s).answers = s.answers := rfl
@[simp] theorem respond_drawn (v : Response) (s : State) :
    (respond v s).drawn = s.drawn := rfl

/-! ## `takeFault` -/

@[simp] theorem takeFault_cfg (f : RaisedFault) (s : State) :
    (takeFault f s).cfg = s.cfg := rfl
@[simp] theorem takeFault_params (f : RaisedFault) (s : State) :
    (takeFault f s).params = s.params := rfl
@[simp] theorem takeFault_rowOffset (f : RaisedFault) (s : State) :
    (takeFault f s).rowOffset = s.rowOffset := rfl
@[simp] theorem takeFault_functionReg (f : RaisedFault) (s : State) :
    (takeFault f s).functionReg = s.functionReg := rfl
@[simp] theorem takeFault_controlReg (f : RaisedFault) (s : State) :
    (takeFault f s).controlReg = s.controlReg := rfl
@[simp] theorem takeFault_modeReg (f : RaisedFault) (s : State) :
    (takeFault f s).modeReg = s.modeReg := rfl
@[simp] theorem takeFault_cursorCol (f : RaisedFault) (s : State) :
    (takeFault f s).cursorCol = s.cursorCol := rfl
@[simp] theorem takeFault_cursorRow (f : RaisedFault) (s : State) :
    (takeFault f s).cursorRow = s.cursorRow := rfl
@[simp] theorem takeFault_backlight (f : RaisedFault) (s : State) :
    (takeFault f s).backlight = s.backlight := rfl
@[simp] theorem takeFault_latch (f : RaisedFault) (s : State) :
    (takeFault f s).latch = s.latch := rfl
@[simp] theorem takeFault_pc (f : RaisedFault) (s : State) :
    (takeFault f s).pc = s.pc := rfl
@[simp] theorem takeFault_prog (f : RaisedFault) (s : State) :
    (takeFault f s).prog = s.prog := rfl
@[simp] theorem takeFault_trace (f : RaisedFault) (s : State) :
    (takeFault f s).trace = s.trace := rfl
@[simp] theorem takeFault_resp (f : RaisedFault) (s : State) :
    (takeFault f s).resp = s.resp := rfl
@[simp] theorem takeFault_faults (f : RaisedFault) (s : State) :
    (takeFault f s).faults = s.faults ++ [(s.pc, f)] := rfl
@[simp] theorem takeFault_halted (f : RaisedFault) (s : State) :
    (takeFault f s).halted = true := rfl
@[simp] theorem takeFault_answers (f : RaisedFault) (s : State) :
    (takeFault f s).answers = s.answers := rfl
@[simp] theorem takeFault_drawn (f : RaisedFault) (s : State) :
    (takeFault f s).drawn = s.drawn := rfl

/-! ## `endRun` -/

@[simp] theorem endRun_cfg (s : State) :
    (endRun s).cfg = s.cfg := rfl
@[simp] theorem endRun_params (s : State) :
    (endRun s).params = s.params := rfl
@[simp] theorem endRun_rowOffset (s : State) :
    (endRun s).rowOffset = s.rowOffset := rfl
@[simp] theorem endRun_functionReg (s : State) :
    (endRun s).functionReg = s.functionReg := rfl
@[simp] theorem endRun_controlReg (s : State) :
    (endRun s).controlReg = s.controlReg := rfl
@[simp] theorem endRun_modeReg (s : State) :
    (endRun s).modeReg = s.modeReg := rfl
@[simp] theorem endRun_cursorCol (s : State) :
    (endRun s).cursorCol = s.cursorCol := rfl
@[simp] theorem endRun_cursorRow (s : State) :
    (endRun s).cursorRow = s.cursorRow := rfl
@[simp] theorem endRun_backlight (s : State) :
    (endRun s).backlight = s.backlight := rfl
@[simp] theorem endRun_latch (s : State) :
    (endRun s).latch = s.latch := rfl
@[simp] theorem endRun_pc (s : State) :
    (endRun s).pc = s.pc := rfl
@[simp] theorem endRun_prog (s : State) :
    (endRun s).prog = s.prog := rfl
@[simp] theorem endRun_trace (s : State) :
    (endRun s).trace = s.trace := rfl
@[simp] theorem endRun_resp (s : State) :
    (endRun s).resp = s.resp := rfl
@[simp] theorem endRun_faults (s : State) :
    (endRun s).faults = s.faults := rfl
@[simp] theorem endRun_halted (s : State) :
    (endRun s).halted = true := rfl
@[simp] theorem endRun_answers (s : State) :
    (endRun s).answers = s.answers := rfl
@[simp] theorem endRun_drawn (s : State) :
    (endRun s).drawn = s.drawn := rfl

/-! ## `logWrite` -/

@[simp] theorem logWrite_cfg (b : Byte) (l : Option Byte) (s : State) :
    (logWrite b l s).cfg = s.cfg := rfl
@[simp] theorem logWrite_params (b : Byte) (l : Option Byte) (s : State) :
    (logWrite b l s).params = s.params := rfl
@[simp] theorem logWrite_rowOffset (b : Byte) (l : Option Byte) (s : State) :
    (logWrite b l s).rowOffset = s.rowOffset := rfl
@[simp] theorem logWrite_functionReg (b : Byte) (l : Option Byte) (s : State) :
    (logWrite b l s).functionReg = s.functionReg := rfl
@[simp] theorem logWrite_controlReg (b : Byte) (l : Option Byte) (s : State) :
    (logWrite b l s).controlReg = s.controlReg := rfl
@[simp] theorem logWrite_modeReg (b : Byte) (l : Option Byte) (s : State) :
    (logWrite b l s).modeReg = s.modeReg := rfl
@[simp] theorem logWrite_cursorCol (b : Byte) (l : Option Byte) (s : State) :
    (logWrite b l s).cursorCol = s.cursorCol := rfl
@[simp] theorem logWrite_cursorRow (b : Byte) (l : Option Byte) (s : State) :
    (logWrite b l s).cursorRow = s.cursorRow := rfl
@[simp] theorem logWrite_backlight (b : Byte) (l : Option Byte) (s : State) :
    (logWrite b l s).backlight = s.backlight := rfl
@[simp] theorem logWrite_latch (b : Byte) (l : Option Byte) (s : State) :
    (logWrite b l s).latch = l := rfl
@[simp] theorem logWrite_pc (b : Byte) (l : Option Byte) (s : State) :
    (logWrite b l s).pc = s.pc := rfl
@[simp] theorem logWrite_prog (b : Byte) (l : Option Byte) (s : State) :
    (logWrite b l s).prog = s.prog := rfl
@[simp] theorem logWrite_trace (b : Byte) (l : Option Byte) (s : State) :
    (logWrite b l s).trace = s.trace ++ [.write s.cfg.addr b] := rfl
@[simp] theorem logWrite_resp (b : Byte) (l : Option Byte) (s : State) :
    (logWrite b l s).resp = s.resp := rfl
@[simp] theorem logWrite_faults (b : Byte) (l : Option Byte) (s : State) :
    (logWrite b l s).faults = s.faults := rfl
@[simp] theorem logWrite_halted (b : Byte) (l : Option Byte) (s : State) :
    (logWrite b l s).halted = s.halted := rfl
@[simp] theorem logWrite_answers (b : Byte) (l : Option Byte) (s : State) :
    (logWrite b l s).answers = s.answers.tail := rfl
@[simp] theorem logWrite_drawn (b : Byte) (l : Option Byte) (s : State) :
    (logWrite b l s).drawn = s.drawn + 1 := rfl

/-! ## `logWait` -/

@[simp] theorem logWait_cfg (t : Nat) (s : State) :
    (logWait t s).cfg = s.cfg := rfl
@[simp] theorem logWait_params (t : Nat) (s : State) :
    (logWait t s).params = s.params := rfl
@[simp] theorem logWait_rowOffset (t : Nat) (s : State) :
    (logWait t s).rowOffset = s.rowOffset := rfl
@[simp] theorem logWait_functionReg (t : Nat) (s : State) :
    (logWait t s).functionReg = s.functionReg := rfl
@[simp] theorem logWait_controlReg (t : Nat) (s : State) :
    (logWait t s).controlReg = s.controlReg := rfl
@[simp] theorem logWait_modeReg (t : Nat) (s : State) :
    (logWait t s).modeReg = s.modeReg := rfl
@[simp] theorem logWait_cursorCol (t : Nat) (s : State) :
    (logWait t s).cursorCol = s.cursorCol := rfl
@[simp] theorem logWait_cursorRow (t : Nat) (s : State) :
    (logWait t s).cursorRow = s.cursorRow := rfl
@[simp] theorem logWait_backlight (t : Nat) (s : State) :
    (logWait t s).backlight = s.backlight := rfl
@[simp] theorem logWait_latch (t : Nat) (s : State) :
    (logWait t s).latch = s.latch := rfl
@[simp] theorem logWait_pc (t : Nat) (s : State) :
    (logWait t s).pc = s.pc := rfl
@[simp] theorem logWait_prog (t : Nat) (s : State) :
    (logWait t s).prog = s.prog := rfl
@[simp] theorem logWait_trace (t : Nat) (s : State) :
    (logWait t s).trace = s.trace ++ [.wait t] := rfl
@[simp] theorem logWait_resp (t : Nat) (s : State) :
    (logWait t s).resp = s.resp := rfl
@[simp] theorem logWait_faults (t : Nat) (s : State) :
    (logWait t s).faults = s.faults := rfl
@[simp] theorem logWait_halted (t : Nat) (s : State) :
    (logWait t s).halted = s.halted := rfl
@[simp] theorem logWait_answers (t : Nat) (s : State) :
    (logWait t s).answers = s.answers := rfl
@[simp] theorem logWait_drawn (t : Nat) (s : State) :
    (logWait t s).drawn = s.drawn := rfl

/-! ## `afterEvents` -/

@[simp] theorem afterEvents_cfg (es : List Event) (s : State) :
    (s.afterEvents es).cfg = s.cfg := rfl
@[simp] theorem afterEvents_params (es : List Event) (s : State) :
    (s.afterEvents es).params = s.params := rfl
@[simp] theorem afterEvents_rowOffset (es : List Event) (s : State) :
    (s.afterEvents es).rowOffset = s.rowOffset := rfl
@[simp] theorem afterEvents_functionReg (es : List Event) (s : State) :
    (s.afterEvents es).functionReg = s.functionReg := rfl
@[simp] theorem afterEvents_controlReg (es : List Event) (s : State) :
    (s.afterEvents es).controlReg = s.controlReg := rfl
@[simp] theorem afterEvents_modeReg (es : List Event) (s : State) :
    (s.afterEvents es).modeReg = s.modeReg := rfl
@[simp] theorem afterEvents_cursorCol (es : List Event) (s : State) :
    (s.afterEvents es).cursorCol = s.cursorCol := rfl
@[simp] theorem afterEvents_cursorRow (es : List Event) (s : State) :
    (s.afterEvents es).cursorRow = s.cursorRow := rfl
@[simp] theorem afterEvents_backlight (es : List Event) (s : State) :
    (s.afterEvents es).backlight = s.backlight := rfl
@[simp] theorem afterEvents_latch (es : List Event) (s : State) :
    (s.afterEvents es).latch = latchAfter s.latch es := rfl
@[simp] theorem afterEvents_pc (es : List Event) (s : State) :
    (s.afterEvents es).pc = s.pc := rfl
@[simp] theorem afterEvents_prog (es : List Event) (s : State) :
    (s.afterEvents es).prog = s.prog := rfl
@[simp] theorem afterEvents_trace (es : List Event) (s : State) :
    (s.afterEvents es).trace = s.trace ++ es := rfl
@[simp] theorem afterEvents_resp (es : List Event) (s : State) :
    (s.afterEvents es).resp = s.resp := rfl
@[simp] theorem afterEvents_faults (es : List Event) (s : State) :
    (s.afterEvents es).faults = s.faults := rfl
@[simp] theorem afterEvents_halted (es : List Event) (s : State) :
    (s.afterEvents es).halted = s.halted := rfl
@[simp] theorem afterEvents_answers (es : List Event) (s : State) :
    (s.afterEvents es).answers = s.answers.drop (writeCount es) := rfl
@[simp] theorem afterEvents_drawn (es : List Event) (s : State) :
    (s.afterEvents es).drawn = s.drawn + writeCount es := rfl

/-! ## `launch` -/

@[simp] theorem launch_cfg (ws : List Word) (s : State) :
    (launch ws s).cfg = s.cfg := rfl
@[simp] theorem launch_params (ws : List Word) (s : State) :
    (launch ws s).params = s.params := rfl
@[simp] theorem launch_rowOffset (ws : List Word) (s : State) :
    (launch ws s).rowOffset = s.rowOffset := rfl
@[simp] theorem launch_functionReg (ws : List Word) (s : State) :
    (launch ws s).functionReg = s.functionReg := rfl
@[simp] theorem launch_controlReg (ws : List Word) (s : State) :
    (launch ws s).controlReg = s.controlReg := rfl
@[simp] theorem launch_modeReg (ws : List Word) (s : State) :
    (launch ws s).modeReg = s.modeReg := rfl
@[simp] theorem launch_cursorCol (ws : List Word) (s : State) :
    (launch ws s).cursorCol = s.cursorCol := rfl
@[simp] theorem launch_cursorRow (ws : List Word) (s : State) :
    (launch ws s).cursorRow = s.cursorRow := rfl
@[simp] theorem launch_backlight (ws : List Word) (s : State) :
    (launch ws s).backlight = s.backlight := rfl
@[simp] theorem launch_latch (ws : List Word) (s : State) :
    (launch ws s).latch = s.latch := rfl
@[simp] theorem launch_pc (ws : List Word) (s : State) :
    (launch ws s).pc = 0 := rfl
@[simp] theorem launch_prog (ws : List Word) (s : State) :
    (launch ws s).prog = ws := rfl
@[simp] theorem launch_trace (ws : List Word) (s : State) :
    (launch ws s).trace = [] := rfl
@[simp] theorem launch_resp (ws : List Word) (s : State) :
    (launch ws s).resp = [] := rfl
@[simp] theorem launch_faults (ws : List Word) (s : State) :
    (launch ws s).faults = [] := rfl
@[simp] theorem launch_halted (ws : List Word) (s : State) :
    (launch ws s).halted = false := rfl
@[simp] theorem launch_answers (ws : List Word) (s : State) :
    (launch ws s).answers = s.answers := rfl
@[simp] theorem launch_drawn (ws : List Word) (s : State) :
    (launch ws s).drawn = s.drawn := rfl

end Sys2Proof.Laws
end

