-- ==== Sys2Proof/Laws/Bus.lean ====
section
/-! SUPPORT. What the bus operations can do, said once: a list of emitter lines either plays to its end or stops
at the first write answered `Fail` (R14, R128). Later proofs cite `perform_plays`, `emit_plays` and
`Plays.andThen` and never unfold `perform`. -/

namespace Sys2Proof.Laws

open Sys2Proof.Machine

/-! ## Answers -/

@[simp] theorem answerAt_logWrite (b : Byte) (l : Option Byte) (s : State) (k : Nat) :
    (logWrite b l s).answerAt k = s.answerAt (k + 1) := by
  cases h : s.answers with
  | nil => simp [State.answerAt, h]; congr 1; omega
  | cons a as =>
    have : s.drawn + 1 + k = s.drawn + (k + 1) := by omega
    simp [State.answerAt, h, this]

@[simp] theorem answerAt_logWait (t : Nat) (s : State) (k : Nat) :
    (logWait t s).answerAt k = s.answerAt k := rfl

@[simp] theorem answerAt_writeControl (v : Byte) (s : State) (k : Nat) :
    (writeControl v s).answerAt k = s.answerAt k := rfl

@[simp] theorem answerAt_writeMode (v : Byte) (s : State) (k : Nat) :
    (writeMode v s).answerAt k = s.answerAt k := rfl

@[simp] theorem answerAt_writeBacklight (v : Bool) (s : State) (k : Nat) :
    (writeBacklight v s).answerAt k = s.answerAt k := rfl

@[simp] theorem answerAt_afterEvents (es : List Event) (s : State) (k : Nat) :
    (s.afterEvents es).answerAt k = s.answerAt (writeCount es + k) := by
  have : s.drawn + writeCount es + k = s.drawn + (writeCount es + k) := by omega
  simp [State.answerAt, this]

/-! ## Lists of events -/

@[simp] theorem writeCount_append (es fs : List Event) :
    writeCount (es ++ fs) = writeCount es + writeCount fs := by
  induction es with
  | nil => simp [writeCount]
  | cons e es ih => cases e <;> (simp [writeCount, ih]; try omega)

@[simp] theorem waitCount_append (es fs : List Event) :
    waitCount (es ++ fs) = waitCount es + waitCount fs := by
  induction es with
  | nil => simp [waitCount]
  | cons e es ih => cases e <;> (simp [waitCount, ih]; try omega)

@[simp] theorem waitSum_append (es fs : List Event) : waitSum (es ++ fs) = waitSum es + waitSum fs := by
  induction es with
  | nil => simp [waitSum]
  | cons e es ih => cases e <;> (simp [waitSum, ih]; try omega)

@[simp] theorem latchAfter_append (l : Option Byte) (es fs : List Event) :
    latchAfter l (es ++ fs) = latchAfter (latchAfter l es) fs := by
  induction es generalizing l with
  | nil => rfl
  | cons e es ih => cases e <;> exact ih _

/-- The part kept of a list whose failing write stands in its second half. -/
theorem uptoWrite_append_right (j : Nat) (es fs : List Event) :
    uptoWrite (writeCount es + j) (es ++ fs) = es ++ uptoWrite j fs := by
  induction es with
  | nil => simp [writeCount]
  | cons e es ih =>
    cases e with
    | write a b =>
      have : writeCount es + 1 + j = (writeCount es + j) + 1 := by omega
      simp [writeCount, this, uptoWrite, ih]
    | wait t => simp [writeCount, uptoWrite, ih]

/-- The part kept of a list whose failing write stands in its first half. -/
theorem uptoWrite_append_left (j : Nat) (es fs : List Event) (h : j < writeCount es) :
    uptoWrite j (es ++ fs) = uptoWrite j es := by
  induction es generalizing j with
  | nil => simp [writeCount] at h
  | cons e es ih =>
    cases e with
    | write a b =>
      cases j with
      | zero => rfl
      | succ j => simp [uptoWrite]; exact ih j (by simp [writeCount] at h; omega)
    | wait t => simp [uptoWrite]; exact ih j (by simpa [writeCount] using h)

theorem afterEvents_nil (s : State) : s.afterEvents [] = s := by
  simp [State.afterEvents, writeCount, latchAfter]

theorem afterEvents_append (es fs : List Event) (s : State) :
    s.afterEvents (es ++ fs) = (s.afterEvents es).afterEvents fs := by
  simp [State.afterEvents, List.append_assoc, Nat.add_assoc]

theorem logWait_eq (t : Nat) (s : State) : logWait t s = s.afterEvents [.wait t] := by
  simp [State.afterEvents, logWait, writeCount, latchAfter]

theorem logWrite_eq (b : Byte) (s : State) :
    logWrite b (some b) s = s.afterEvents [.write s.cfg.addr b] := by
  simp [State.afterEvents, logWrite, writeCount, latchAfter]

/-! ## Playing events -/

/-- The state after a failing write `j` of `es`: the events up to it, and an unknown latch (R45, R128). -/
def failedAt (j : Nat) (es : List Event) (s : State) : State :=
  { s.afterEvents (uptoWrite j es) with latch := none, answers := s.answers.drop (j + 1), drawn := s.drawn + (j + 1) }

/-- `p` is the result of playing the events `es` from `s`: all of them, or up to the first failing write. -/
def Plays (es : List Event) (s : State) (p : Progress) : Prop :=
  (s.AnswersOk (writeCount es) ∧ p = .ok (s.afterEvents es)) ∨
  (∃ j b, j < writeCount es ∧ s.AnswersOk j ∧ s.answerAt j = .fail ∧
    (uptoWrite j es).getLast? = some (.write s.cfg.addr b) ∧
    p = .raised (.transportFailure b) (failedAt j es s))

theorem plays_nil (s : State) : Plays [] s (.ok s) :=
  .inl ⟨by simp [State.AnswersOk, writeCount], by rw [afterEvents_nil]⟩

theorem plays_wait (t : Nat) (s : State) : Plays [.wait t] s (.ok (logWait t s)) :=
  .inl ⟨by simp [State.AnswersOk, writeCount], by rw [logWait_eq]⟩

theorem plays_busWrite (b : Byte) (s : State) : Plays [.write s.cfg.addr b] s (busWrite b s) := by
  unfold busWrite
  cases h : s.answerAt 0 with
  | ok =>
    refine .inl ⟨?_, by simp [logWrite_eq]⟩
    intro k hk
    have : k = 0 := by simp [writeCount] at hk; omega
    rw [this, h]
  | fail =>
    refine .inr ⟨0, b, by simp [writeCount], by simp [State.AnswersOk], h, by simp [uptoWrite], ?_⟩
    simp [failedAt, State.afterEvents, uptoWrite, logWrite]

/-- Playing one list and then, from where it ends, another is playing both. -/
theorem Plays.andThen {es fs : List Event} {s : State} {p : Progress} {k : State → Progress}
    (hp : Plays es s p) (hk : Plays fs (s.afterEvents es) (k (s.afterEvents es))) :
    Plays (es ++ fs) s (p.andThen k) := by
  obtain ⟨hok, rfl⟩ | ⟨j, b, hj, hok, hf, hl, rfl⟩ := hp
  · obtain ⟨hok', hk⟩ | ⟨j, b, hj, hok', hf, hl, hk⟩ := hk
    · refine .inl ⟨?_, ?_⟩
      · intro i hi
        by_cases h : i < writeCount es
        · exact hok i h
        · have := hok' (i - writeCount es) (by simp at hi; omega)
          rw [answerAt_afterEvents] at this
          rwa [show writeCount es + (i - writeCount es) = i by omega] at this
      · simp [Progress.andThen, hk, afterEvents_append]
    · refine .inr ⟨writeCount es + j, b, by simp; omega, ?_, by simpa using hf, ?_, ?_⟩
      · intro i hi
        by_cases h : i < writeCount es
        · exact hok i h
        · have := hok' (i - writeCount es) (by omega)
          rw [answerAt_afterEvents] at this
          rwa [show writeCount es + (i - writeCount es) = i by omega] at this
      · rw [uptoWrite_append_right, List.getLast?_append, hl]; simp
      · simp only [Progress.andThen, hk]
        simp [failedAt, uptoWrite_append_right, State.afterEvents, Nat.add_assoc]
  · refine .inr ⟨j, b, by simp; omega, hok, hf, by rwa [uptoWrite_append_left _ _ _ hj], ?_⟩
    simp [Progress.andThen, failedAt, uptoWrite_append_left _ _ _ hj]

/-- The events of emitter lines at a device address. -/
def eventsOf (a : Address) : List BusAction → List Event
  | [] => []
  | .write b :: as => .write a b :: eventsOf a as
  | .wait t :: as => .wait t :: eventsOf a as

/-- Everything `perform` can do. -/
theorem perform_plays (as : List BusAction) (s : State) : Plays (eventsOf s.cfg.addr as) s (perform as s) := by
  induction as generalizing s with
  | nil => exact plays_nil s
  | cons a as ih =>
    cases a with
    | write b => exact (plays_busWrite b s).andThen (by simpa using ih (s.afterEvents [.write s.cfg.addr b]))
    | wait t =>
      have := (plays_wait t s).andThen (k := perform as) (by simpa using ih (s.afterEvents [.wait t]))
      simpa [Progress.andThen, eventsOf, perform] using this

/-- Everything `WriteNibble` can do (R121). -/
theorem writeNibble_plays (nib : Nibble) (mode : SendMode) (t : Nat) (s : State) :
    Plays (nibbleEvents s nib mode t) s (writeNibble nib mode t s) := by
  simpa [nibbleEvents, nibbleActions, writeNibble, eventsOf, line] using
    perform_plays (nibbleActions s.params s.backlight nib mode t) s

/-! The events of a byte depend on the configuration, the parameters and the backlight alone. -/

theorem sendEvents_congr {s t : State} (h1 : t.cfg = s.cfg) (h2 : t.params = s.params)
    (h3 : t.backlight = s.backlight) (v : Byte) (mode : SendMode) :
    sendEvents t v mode = sendEvents s v mode := by
  simp [sendEvents, nibbleEvents, h1, h2, h3]

@[simp] theorem nibbleEvents_afterEvents (es : List Event) (s : State) (nib : Nibble) (mode : SendMode) (t : Nat) :
    nibbleEvents (s.afterEvents es) nib mode t = nibbleEvents s nib mode t := rfl

@[simp] theorem sendEvents_afterEvents (es : List Event) (s : State) (v : Byte) (mode : SendMode) :
    sendEvents (s.afterEvents es) v mode = sendEvents s v mode := rfl

@[simp] theorem nibbleEvents_logWait (w : Nat) (s : State) (nib : Nibble) (mode : SendMode) (t : Nat) :
    nibbleEvents (logWait w s) nib mode t = nibbleEvents s nib mode t := rfl

@[simp] theorem sendEvents_logWait (w : Nat) (s : State) (v : Byte) (mode : SendMode) :
    sendEvents (logWait w s) v mode = sendEvents s v mode := rfl

@[simp] theorem sendEvents_writeControl (x : Byte) (s : State) (v : Byte) (mode : SendMode) :
    sendEvents (writeControl x s) v mode = sendEvents s v mode := rfl

@[simp] theorem sendEvents_writeMode (x : Byte) (s : State) (v : Byte) (mode : SendMode) :
    sendEvents (writeMode x s) v mode = sendEvents s v mode := rfl

@[simp] theorem sendEvents_writeCursor (c r : Byte) (s : State) (v : Byte) (mode : SendMode) :
    sendEvents (writeCursor c r s) v mode = sendEvents s v mode := rfl

@[simp] theorem sendEvents_writeCursorCol (c : Byte) (s : State) (v : Byte) (mode : SendMode) :
    sendEvents (writeCursorCol c s) v mode = sendEvents s v mode := rfl

@[simp] theorem sendEvents_advance (n : Nat) (s : State) (v : Byte) (mode : SendMode) :
    sendEvents (advance n s) v mode = sendEvents s v mode := rfl

theorem settleTime_eq (t : Timing) (v : Byte) (mode : SendMode) :
    settleTime t v mode =
      if mode = .command ∧ (v = 0x01#8 ∨ v = 0x02#8 ∨ v = 0x03#8) then t.tExecLong else t.tExec := by
  cases mode <;> simp [settleTime, longSettle, SendMode.bit, or_assoc]

/-- Everything `Emit` can do (R122, R125, R128). -/
theorem emit_plays (v : Byte) (mode : SendMode) (s : State) :
    Plays (sendEvents s v mode) s (emit v mode s) := by
  refine (writeNibble_plays _ _ _ s).andThen ?_
  have := writeNibble_plays (lowNibble v) mode
    (settleTime (s.afterEvents (nibbleEvents s (highNibble v) mode s.params.timing.tExec)).params.timing v mode)
    (s.afterEvents (nibbleEvents s (highNibble v) mode s.params.timing.tExec))
  simpa [settleTime_eq, lowNibble, highNibble] using this

/-- What `Plays` says when the answers are known: all `Ok`. -/
theorem Plays.eq_ok {es : List Event} {s : State} {p : Progress} (h : Plays es s p)
    (hok : s.AnswersOk (writeCount es)) : p = .ok (s.afterEvents es) := by
  obtain ⟨-, rfl⟩ | ⟨j, b, hj, -, hf, -⟩ := h
  · rfl
  · rw [hok j hj] at hf; cases hf

/-- What `Plays` says when the answers are known: the first `Fail` is the answer to write `j`. -/
theorem Plays.eq_raised {es : List Event} {s : State} {p : Progress} (h : Plays es s p) {j : Nat}
    (hj : j < writeCount es) (hok : s.AnswersOk j) (hf : s.answerAt j = .fail) :
    ∃ b, (uptoWrite j es).getLast? = some (.write s.cfg.addr b) ∧
      p = .raised (.transportFailure b) (failedAt j es s) := by
  obtain ⟨hok', -⟩ | ⟨i, b, hi, hok', hf', hl, hp⟩ := h
  · rw [hok' j hj] at hf; cases hf
  · have : i = j := by
      rcases Nat.lt_trichotomy i j with h | h | h
      · rw [hok i h] at hf'; cases hf'
      · exact h
      · rw [hok' j h] at hf; cases hf
    subst this
    exact ⟨b, hl, hp⟩

@[simp] theorem writeCount_nibbleEvents (s : State) (nib : Nibble) (mode : SendMode) (t : Nat) :
    writeCount (nibbleEvents s nib mode t) = 3 := rfl

@[simp] theorem writeCount_sendEvents (s : State) (v : Byte) (mode : SendMode) :
    writeCount (sendEvents s v mode) = 6 := rfl

@[simp] theorem waitCount_sendEvents (s : State) (v : Byte) (mode : SendMode) :
    waitCount (sendEvents s v mode) = 6 := rfl

end Sys2Proof.Laws
end

