-- ==== Sys2Proof/Laws/Operands.lean ====
section
/-! SUPPORT. The operand and flag computations, said once: one line of the expander byte, the clamps as numbers, and
the hard-wired bits (R33, R35, R36, R120, R151, R191, R193). -/

namespace Sys2Proof.Laws

open Sys2Proof.Machine

/-- A line carries its bit at its own position and 0 elsewhere. -/
theorem getLsbD_line (b : Bool) (p q : Fin 8) : (line b p).getLsbD q.val = (b && decide (p = q)) := by
  revert b p q; decide

@[simp] theorem clampRow_toNat (cfg : DisplayConfig) (r : Byte) :
    (clampRow cfg r).toNat = min r.toNat (cfg.rows.toNat - 1) := by
  have := r.isLt
  simp [clampRow]; omega

@[simp] theorem clampCol_toNat (cfg : DisplayConfig) (c : Byte) :
    (clampCol cfg c).toNat = min c.toNat (cfg.cols.toNat - 1) := by
  have := c.isLt
  simp [clampCol]; omega

@[simp] theorem advanceCol_toNat (cfg : DisplayConfig) (c : Byte) :
    (advanceCol cfg c).toNat = min (c.toNat + 1) (cfg.cols.toNat - 1) := by
  have := cfg.cols.isLt
  simp [advanceCol]; omega

@[simp] theorem clampSlot_toNat (l : Byte) : (clampSlot l).toNat = min l.toNat 7 := by simp [clampSlot]

@[simp] theorem clampRow_zero (cfg : DisplayConfig) : clampRow cfg 0#8 = 0#8 := by simp [clampRow]

@[simp] theorem clampCol_zero (cfg : DisplayConfig) : clampCol cfg 0#8 = 0#8 := by simp [clampCol]

/-- The construction value has no hard-wired bit set (R33, R34). -/
@[simp] theorem functionInit_and_functionBits (rows : RowCount) (charsize : CharSize) :
    functionInit rows charsize &&& functionBits = functionInit rows charsize := by
  cases rows <;> cases charsize <;> rfl

/-- A toggle of a register's own bit keeps the hard-wired bits 0 (R35, R36, R140). -/
theorem toggleBits_and_mask (x bit m : Byte) (set : Bool) (hb : bit &&& m = bit) :
    toggleBits bit set (x &&& m) &&& m = toggleBits bit set (x &&& m) := by
  ext i hi
  have h := congrArg (fun b => b.getLsbD i) hb
  cases set
  · simp [toggleBits]
    cases x[i] <;> cases bit[i] <;> cases m[i] <;> simp_all
  · simp [toggleBits] at *
    simp only [BitVec.getLsbD_eq_getElem hi] at *
    cases x[i] <;> cases h1 : bit[i] <;> cases h2 : m[i] <;> simp_all

theorem readControl_masked {s : State} {old : Byte} (h : readControl s = some old) : ∃ x, old = x &&& controlBits := by
  unfold readControl at h
  cases hc : s.controlReg <;> simp [hc] at h
  exact ⟨_, h.symm⟩

theorem readMode_masked {s : State} {old : Byte} (h : readMode s = some old) : ∃ x, old = x &&& modeBits := by
  unfold readMode at h
  cases hc : s.modeReg <;> simp [hc] at h
  exact ⟨_, h.symm⟩

end Sys2Proof.Laws
end

