-- ==== Sys2Proof/Laws/Operations.lean ====
section
/-! SUPPORT. What each shared body of an operation can do, said once over `Plays`: the toggles, the glyph, and BEGIN;
and what one step can do. Proofs about operations cite these and never unfold the bodies. -/

namespace Sys2Proof.Laws

open Sys2Proof.Machine

/-! ## The end of an operation -/

/-- A failed write, once its fault is taken, is the state claims name. -/
theorem takeFault_failedAt (j : Nat) (es : List Event) (b : Byte) (s : State) :
    takeFault (.transportFailure b) (failedAt j es s) = s.afterFailedWrite j es b := rfl

/-- An operation that plays `es` and then updates the state by `k` and advances. -/
theorem settle_plays {es : List Event} {u : State} {p : Progress} (h : Plays es u p) (n : Nat) (k : State → State) :
    (p.andThen fun t => finish n (k t)).settle = advance n (k (u.afterEvents es)) ∨
    ∃ j b, j < writeCount es ∧ (uptoWrite j es).getLast? = some (.write u.cfg.addr b) ∧
      (p.andThen fun t => finish n (k t)).settle = u.afterFailedWrite j es b := by
  obtain ⟨-, rfl⟩ | ⟨j, b, hj, -, -, hl, rfl⟩ := h
  · exact .inl rfl
  · exact .inr ⟨j, b, hj, hl, rfl⟩

/-! ## The toggles -/

theorem toggleControl_plays {s : State} {old bit : Byte} {set : Bool} (h : readControl s = some old)
    (hb : bit &&& controlBits = bit) :
    ∃ p, Plays (sendEvents s (s.params.codes.displayControl ||| toggleBits bit set old) .command)
      { s with controlReg := some (toggleBits bit set old) } p ∧ toggleControl bit set s = p.andThen (finish 1) := by
  obtain ⟨x, rfl⟩ := readControl_masked h
  refine ⟨_, emit_plays _ _ _, ?_⟩
  simp [toggleControl, h, writeControl, toggleBits_and_mask x _ _ _ hb]

theorem toggleMode_plays {s : State} {old bit : Byte} {set : Bool} (h : readMode s = some old)
    (hb : bit &&& modeBits = bit) :
    ∃ p, Plays (sendEvents s (s.params.codes.entryModeSet ||| toggleBits bit set old) .command)
      { s with modeReg := some (toggleBits bit set old) } p ∧ toggleMode bit set s = p.andThen (finish 1) := by
  obtain ⟨x, rfl⟩ := readMode_masked h
  refine ⟨_, emit_plays _ _ _, ?_⟩
  simp [toggleMode, h, writeMode, toggleBits_and_mask x _ _ _ hb]

/-! ## The glyph -/

theorem emitAll_plays (bs : List Byte) (s : State) :
    Plays (bs.flatMap fun b => sendEvents s b .data) s (emitAll bs s) := by
  induction bs generalizing s with
  | nil => exact plays_nil s
  | cons b bs ih =>
    rw [List.flatMap_cons]
    exact (emit_plays b .data s).andThen (by simpa using ih (s.afterEvents (sendEvents s b .data)))

theorem emitGlyph_plays (location : Byte) (charmap : List Byte) (s : State) :
    Plays (glyphEvents s location charmap) s (emitGlyph location charmap s) :=
  (emit_plays _ .command s).andThen (by simpa using emitAll_plays charmap (s.afterEvents _))

theorem writeCount_flatMap_sendEvents (s : State) (bs : List Byte) (mode : SendMode) :
    writeCount (bs.flatMap fun b => sendEvents s b mode) = 6 * bs.length := by
  induction bs with
  | nil => rfl
  | cons b bs ih => simp [ih]; omega

@[simp] theorem writeCount_glyphEvents (s : State) (location : Byte) (charmap : List Byte) :
    writeCount (glyphEvents s location charmap) = 6 * (1 + charmap.length) := by
  simp [glyphEvents, writeCount_flatMap_sendEvents]; omega

/-! ## BEGIN -/

theorem forceFourBit_plays (s : State) :
    Plays (nibbleEvents s 0x3#4 .command s.params.timing.tInit1 ++
      (nibbleEvents s 0x3#4 .command s.params.timing.tInit2 ++
       (nibbleEvents s 0x3#4 .command s.params.timing.tExec ++
        nibbleEvents s 0x2#4 .command s.params.timing.tExec))) s (forceFourBit s) := by
  refine (writeNibble_plays _ _ _ _).andThen ?_
  refine Plays.andThen (by simpa using writeNibble_plays _ _ _ (s.afterEvents _)) ?_
  refine Plays.andThen (by simpa using writeNibble_plays _ _ _ (State.afterEvents _ (s.afterEvents _))) ?_
  simpa using writeNibble_plays _ _ _ (State.afterEvents _ (State.afterEvents _ (s.afterEvents _)))

/-- The first part of BEGIN, up to the function set command, writes no register. -/
theorem beginHead_plays (s : State) :
    Plays ([.wait s.params.timing.tPowerOn] ++
        (nibbleEvents s 0x3#4 .command s.params.timing.tInit1 ++
          (nibbleEvents s 0x3#4 .command s.params.timing.tInit2 ++
            (nibbleEvents s 0x3#4 .command s.params.timing.tExec ++
              nibbleEvents s 0x2#4 .command s.params.timing.tExec))) ++
        sendEvents s (s.params.codes.functionSet ||| readFunction s) .command) s
      ((forceFourBit (logWait s.params.timing.tPowerOn s)).andThen fun s1 =>
        emit (s1.params.codes.functionSet ||| readFunction s1) .command s1) := by
  have e := (plays_wait s.params.timing.tPowerOn s).andThen (k := forceFourBit)
    (by rw [← logWait_eq]; exact forceFourBit_plays _)
  exact e.andThen (emit_plays _ _ _)

/-! ## One step -/

/-- Everything a step that answers a next state can do. -/
theorem step_cases {s t : State} (h : step s = .next t) :
    (s.halted = false ∧ s.pc = s.prog.length ∧ t = endRun s) ∨
    (s.halted = false ∧ s.pc ≠ s.prog.length ∧
      ∃ w, decode (s.prog.drop s.pc) = .illegal w ∧ t = takeFault (.illegalOp w) s) ∨
    (s.halted = false ∧ s.pc ≠ s.prog.length ∧
      ∃ i rest, decode (s.prog.drop s.pc) = .decoded i rest ∧ exec i s = .next t) := by
  unfold step at h
  split at h
  · cases h
  · rename_i hh
    have hh : s.halted = false := by simpa using hh
    split at h
    · injection h with h
      exact .inl ⟨hh, by assumption, h.symm⟩
    · rename_i hp
      split at h
      · cases h
      · cases h
      · injection h with h
        exact .inr (.inl ⟨hh, hp, _, by assumption, h.symm⟩)
      · exact .inr (.inr ⟨hh, hp, _, _, by assumption, h⟩)

end Sys2Proof.Laws
end

