-- ==== Sys2Proof/Laws/Begin.lean ====
section
/-! SUPPORT. Everything BEGIN can do (R170): it plays all its events, or stops at the first failing write `j` with each
register written exactly when its own emit had begun by then (D16). -/

namespace Sys2Proof.Laws

open Sys2Proof.Machine

/-- `s` after the events `A`, with the two registers at the values BEGIN has given them so far. -/
abbrev midBegin (s : State) (A : List Event) (cr mr : Option Byte) : State :=
  { s.afterEvents A with controlReg := cr, modeReg := mr }

/-- One emit in the middle of BEGIN, after the events `A` and before the events `C`. -/
theorem emit_midBegin {s : State} {A : List Event} (C : List Event) (cr mr : Option Byte) (v : Byte)
    (hA : s.AnswersOk (writeCount A)) :
    (s.AnswersOk (writeCount A + 6) ∧
      emit v .command (midBegin s A cr mr) = .ok (midBegin s (A ++ sendEvents s v .command) cr mr)) ∨
    ∃ j b, writeCount A ≤ j ∧ j < writeCount A + 6 ∧ s.AnswersOk j ∧ s.answerAt j = .fail ∧
      (uptoWrite j (A ++ sendEvents s v .command ++ C)).getLast? = some (.write s.cfg.addr b) ∧
      emit v .command (midBegin s A cr mr) = .raised (.transportFailure b)
        { failedAt j (A ++ sendEvents s v .command ++ C) s with controlReg := cr, modeReg := mr } := by
  have hp := emit_plays v .command (midBegin s A cr mr)
  have hev : sendEvents (midBegin s A cr mr) v .command = sendEvents s v .command := rfl
  have hans : ∀ k, (midBegin s A cr mr).answerAt k = s.answerAt (writeCount A + k) := answerAt_afterEvents A s
  have hok : ∀ n, (midBegin s A cr mr).AnswersOk n → s.AnswersOk (writeCount A + n) := by
    intro n h k hk
    by_cases hl : k < writeCount A
    · exact hA k hl
    · have := h (k - writeCount A) (by omega)
      rwa [hans, show writeCount A + (k - writeCount A) = k by omega] at this
  rw [hev] at hp
  obtain ⟨h, he⟩ | ⟨j, b, hj, h, hf, hl, he⟩ := hp
  · refine .inl ⟨hok 6 h, ?_⟩
    rw [he]
    simp only [midBegin, afterEvents_append]
    rfl
  · have hu : uptoWrite (writeCount A + j) (A ++ (sendEvents s v .command ++ C)) =
        A ++ uptoWrite j (sendEvents s v .command) := by
      rw [uptoWrite_append_right, uptoWrite_append_left _ _ _ hj]
    refine .inr ⟨writeCount A + j, b, by omega, Nat.add_lt_add_left hj _, hok j h, by rw [← hans]; exact hf, ?_, ?_⟩
    · rw [List.append_assoc, hu, List.getLast?_append, hl]; rfl
    · rw [he, List.append_assoc]
      simp [failedAt, State.afterEvents, hu, Nat.add_assoc]

/-- The events of BEGIN before the first register write. -/
def headEvents (s : State) : List Event :=
  [.wait s.params.timing.tPowerOn] ++
    (nibbleEvents s 0x3#4 .command s.params.timing.tInit1 ++
      (nibbleEvents s 0x3#4 .command s.params.timing.tInit2 ++
        (nibbleEvents s 0x3#4 .command s.params.timing.tExec ++
          nibbleEvents s 0x2#4 .command s.params.timing.tExec))) ++
    sendEvents s (s.params.codes.functionSet ||| readFunction s) .command

theorem writeCount_headEvents (s : State) : writeCount (headEvents s) = 18 := rfl

theorem beginEvents_eq (s : State) :
    beginEvents s (readFunction s) = headEvents s ++
      sendEvents s (s.params.codes.displayControl ||| 0x04#8) .command ++
      sendEvents s (s.params.codes.entryModeSet ||| 0x02#8) .command ++ sendEvents s 0x01#8 .command := by
  simp [beginEvents, headEvents]

/-- Everything BEGIN's body can do. -/
theorem beginBody_cases (s : State) :
    (s.AnswersOk 36 ∧ beginBody s =
      .ok (writeCursor 0#8 0#8 (midBegin s (beginEvents s (readFunction s)) (some 0x04#8) (some 0x02#8)))) ∨
    ∃ j b, j < 36 ∧ s.AnswersOk j ∧ s.answerAt j = .fail ∧
      (uptoWrite j (beginEvents s (readFunction s))).getLast? = some (.write s.cfg.addr b) ∧
      beginBody s = .raised (.transportFailure b)
        { failedAt j (beginEvents s (readFunction s)) s with
          controlReg := if j < 18 then s.controlReg else some 0x04#8
          modeReg := if j < 24 then s.modeReg else some 0x02#8 } := by
  have hbody : beginBody s =
      ((forceFourBit (logWait s.params.timing.tPowerOn s)).andThen fun s1 =>
        emit (s1.params.codes.functionSet ||| readFunction s1) .command s1).andThen fun s2 =>
      (emit (s2.params.codes.displayControl ||| controlAfterBegin) .command
        (writeControl controlAfterBegin s2)).andThen fun s3 =>
      (emit (s3.params.codes.entryModeSet ||| modeAfterBegin) .command (writeMode modeAfterBegin s3)).andThen fun s4 =>
      emitThenOrigin 0x01#8 s4 := by
    unfold beginBody
    cases forceFourBit (logWait s.params.timing.tPowerOn s) <;> rfl
  have hhead := beginHead_plays s
  change Plays (headEvents s) s _ at hhead
  rw [hbody, beginEvents_eq]
  have h18 := writeCount_headEvents s
  generalize hA : headEvents s = A at *
  generalize hB : sendEvents s (s.params.codes.displayControl ||| 0x04#8) .command = B
  generalize hC : sendEvents s (s.params.codes.entryModeSet ||| 0x02#8) .command = C
  generalize hD : sendEvents s 0x01#8 .command = D
  have hwB : writeCount B = 6 := by rw [← hB]; rfl
  have hwC : writeCount C = 6 := by rw [← hC]; rfl
  obtain ⟨hok, he⟩ | ⟨j, b, hj, hok, hf, hl, he⟩ := hhead
  swap
  · rw [he]
    refine .inr ⟨j, b, by omega, hok, hf, ?_, ?_⟩
    · rw [List.append_assoc, List.append_assoc, uptoWrite_append_left _ _ _ hj]; exact hl
    · rw [if_pos (by omega), if_pos (by omega), List.append_assoc, List.append_assoc]
      simp [Progress.andThen, failedAt, State.afterEvents, uptoWrite_append_left _ _ _ hj]
  rw [he]
  simp only [Progress.andThen]
  change (_ ∧ Progress.andThen (emit (s.params.codes.displayControl ||| 0x04#8) .command
    (midBegin s A (some 0x04#8) s.modeReg)) _ = _) ∨ ∃ j b, _ ∧ _ ∧ _ ∧ _ ∧ Progress.andThen
      (emit (s.params.codes.displayControl ||| 0x04#8) .command (midBegin s A (some 0x04#8) s.modeReg)) _ = _
  obtain ⟨hok, he⟩ | ⟨j, b, hj, hj', hok, hf, hl, he⟩ :=
    emit_midBegin (C ++ D) (some 0x04#8) s.modeReg (s.params.codes.displayControl ||| 0x04#8) hok
  swap
  · rw [he]
    rw [hB, ← List.append_assoc] at hl
    refine .inr ⟨j, b, by omega, hok, hf, hl, ?_⟩
    rw [if_neg (by omega), if_pos (by omega), hB, ← List.append_assoc]
    rfl
  rw [he, hB]
  simp only [Progress.andThen]
  change (_ ∧ Progress.andThen (emit (s.params.codes.entryModeSet ||| 0x02#8) .command
    (midBegin s (A ++ B) (some 0x04#8) (some 0x02#8))) _ = _) ∨ ∃ j b, _ ∧ _ ∧ _ ∧ _ ∧ Progress.andThen
      (emit (s.params.codes.entryModeSet ||| 0x02#8) .command (midBegin s (A ++ B) (some 0x04#8) (some 0x02#8))) _ = _
  obtain ⟨hok, he⟩ | ⟨j, b, hj, hj', hok, hf, hl, he⟩ :=
    emit_midBegin (A := A ++ B) D (some 0x04#8) (some 0x02#8) (s.params.codes.entryModeSet ||| 0x02#8)
      (by simpa [hwB] using hok)
  swap
  · simp only [writeCount_append] at hj hj'
    rw [he]
    rw [hC] at hl
    refine .inr ⟨j, b, by omega, hok, hf, hl, ?_⟩
    rw [if_neg (by omega), if_neg (by omega), hC]
    rfl
  rw [he, hC]
  simp only [Progress.andThen, emitThenOrigin]
  obtain ⟨hok, he⟩ | ⟨j, b, hj, hj', hok, hf, hl, he⟩ :=
    emit_midBegin (A := A ++ B ++ C) [] (some 0x04#8) (some 0x02#8) 0x01#8 (by simpa [hwC, Nat.add_assoc] using hok)
  · rw [he, hD]
    exact .inl ⟨by simpa [h18, hwB, hwC] using hok, rfl⟩
  · simp only [writeCount_append] at hj hj'
    rw [he]
    rw [hD, List.append_nil] at hl
    refine .inr ⟨j, b, by omega, hok, hf, hl, ?_⟩
    rw [if_neg (by omega), if_neg (by omega), hD, List.append_nil]

end Sys2Proof.Laws
end

