-- ==== Sys2Proof/Laws/Encoding.lean ====
section
/-! SUPPORT. A word and its four fields (R90), the opcode byte (R93) and the extension words (R96): each read of a
packed field, once, so that no later proof unfolds `packWord` or a field read. -/

namespace Sys2Proof.Laws

open Sys2Proof.Machine

theorem packWord_toNat (o a b c : Byte) :
    (packWord o a b c).toNat = ((o.toNat * 256 + a.toNat) * 256 + b.toNat) * 256 + c.toNat := by
  have h (n : Nat) (x : BitVec n) (y : Byte) : (x ++ y).toNat = x.toNat * 256 + y.toNat := by
    rw [BitVec.toNat_append, ← Nat.shiftLeft_add_eq_or_of_lt y.isLt, Nat.shiftLeft_eq]
  unfold packWord
  rw [h, h, h]

@[simp] theorem opcField_packWord (o a b c : Byte) : opcField (packWord o a b c) = o := by
  apply BitVec.eq_of_toNat_eq
  simp [opcField, BitVec.extractLsb'_toNat, packWord_toNat, Nat.shiftRight_eq_div_pow]; omega

@[simp] theorem fieldA_packWord (o a b c : Byte) : fieldA (packWord o a b c) = a := by
  apply BitVec.eq_of_toNat_eq
  simp [fieldA, BitVec.extractLsb'_toNat, packWord_toNat, Nat.shiftRight_eq_div_pow]; omega

@[simp] theorem fieldB_packWord (o a b c : Byte) : fieldB (packWord o a b c) = b := by
  apply BitVec.eq_of_toNat_eq
  simp [fieldB, BitVec.extractLsb'_toNat, packWord_toNat, Nat.shiftRight_eq_div_pow]; omega

@[simp] theorem fieldC_packWord (o a b c : Byte) : fieldC (packWord o a b c) = c := by
  apply BitVec.eq_of_toNat_eq
  simp [fieldC, BitVec.extractLsb'_toNat, packWord_toNat, Nat.shiftRight_eq_div_pow]; omega

/-- A word is its four fields. -/
theorem packWord_fields (w : Word) : packWord (opcField w) (fieldA w) (fieldB w) (fieldC w) = w := by
  apply BitVec.eq_of_toNat_eq
  simp [packWord_toNat, opcField, fieldA, fieldB, fieldC, BitVec.extractLsb'_toNat, Nat.shiftRight_eq_div_pow]
  omega

@[simp] theorem ofCode?_code (op : Opcode) : Opcode.ofCode? op.code = some op := by cases op <;> decide

theorem eq_code_of_ofCode? {c : Byte} {op : Opcode} (h : Opcode.ofCode? c = some op) : c = op.code := by
  have := List.find?_some h
  simp at this
  exact this.symm

/-- A packed first word with legal reserved fields decodes to its opcode. -/
theorem decodeOpcode_packWord (op : Opcode) (a b c : Byte) (h : op.format.reservedOk a b c = true) :
    decodeOpcode (packWord op.code a b c) = some op := by
  simp [decodeOpcode, h]

/-- What a decoded first word looks like. -/
theorem decodeOpcode_some {w : Word} {op : Opcode} (h : decodeOpcode w = some op) :
    opcField w = op.code ∧ op.format.reservedOk (fieldA w) (fieldB w) (fieldC w) = true := by
  unfold decodeOpcode at h
  split at h
  · cases h
  · rename_i o ho
    split at h
    · cases h; exact ⟨eq_code_of_ofCode? ho, by assumption⟩
    · cases h

/-- The encoder leaves every reserved field at its constant (R90). -/
theorem reservedOk_fields (i : Instr) :
    i.opcode.format.reservedOk i.fields.1 i.fields.2.1 i.fields.2.2 = true := by
  cases i with
  | send value mode =>
    cases mode <;> simp only [Instr.opcode, Opcode.format, Format.reservedOk, Instr.fields] <;> rfl
  | setBacklight v => cases v <;> rfl
  | _ => rfl

@[simp] theorem extensionOk_extensionWord (b : Byte) : extensionOk (extensionWord b) = true := by
  simp [extensionOk, extensionWord, Format.reservedOk]

@[simp] theorem fieldC_extensionWord (b : Byte) : fieldC (extensionWord b) = b := by simp [extensionWord]

@[simp] theorem decodeExtension_map (bs : List Byte) : decodeExtension (bs.map extensionWord) = .ok bs := by
  induction bs with
  | nil => rfl
  | cons b bs ih => simp [decodeExtension, ih]

/-- Extension words that decode are the extension words of their bytes (R96). -/
theorem eq_map_of_decodeExtension {ws : List Word} {bs : List Byte} (h : decodeExtension ws = .ok bs) :
    ws = bs.map extensionWord := by
  induction ws generalizing bs with
  | nil => simp [decodeExtension] at h; simp [← h]
  | cons w ws ih =>
    simp only [decodeExtension] at h
    split at h
    · rename_i he
      cases hd : decodeExtension ws with
      | error e => simp [hd] at h
      | ok bs' =>
        simp [hd] at h
        subst h
        rw [List.map_cons, ← ih hd]
        simp [extensionOk, Format.reservedOk] at he
        have := packWord_fields w
        rw [he.1, he.2.1, he.2.2] at this
        simp only [extensionWord]
        rw [← this, fieldC_packWord]
        rfl
    · cases h

@[simp] theorem length_encode (i : Instr) : (encode i).length = i.length := by
  cases i <;> simp [encode, Instr.length, Instr.extension]; omega

/-- The mode bit comes back from the bit field it is written to (R91). -/
@[simp] theorem modeOfBit_bit (m : SendMode) : modeOfBit m.bit = m := by cases m <;> rfl

@[simp] theorem getLsbD_zero_bitField (b : Bool) : (bitField b).getLsbD 0 = b := by cases b <;> rfl

/-- A one-bit field with its reserved bits 0 is written back by its bit (formats `S` and `L`). -/
theorem bitField_getLsbD (x : Byte) (h : x &&& 0xFE#8 = 0) : bitField (x.getLsbD 0) = x := by
  revert x; decide

end Sys2Proof.Laws
end

