-- ==== Sys2Proof/Laws/Exec.lean ====
section
/-! SUPPORT. Everything an operation can do, said once for all 25 (`exec_settles`): which events it plays, what it
writes before them and after them, and what a failing write leaves. Whole-machine proofs take it apart by cases and
never unfold a meaning. -/

namespace Sys2Proof.Laws

open Sys2Proof.Machine

/-- The operations that answer on the response list. -/
abbrev queryOpcodes : List Opcode := [.getBacklight, .getCursor, .getFunction, .getControl, .getMode]

/-- The operations that toggle a bit of `x[CONTROL]`. -/
abbrev controlOpcodes : List Opcode := [.display, .noDisplay, .cursor, .noCursor, .blink, .noBlink]

/-- The operations that toggle a bit of `x[MODE]`. -/
abbrev modeOpcodes : List Opcode := [.leftToRight, .rightToLeft, .autoscroll, .noAutoscroll]

/-- The operations that write no state before their events. -/
abbrev plainOpcodes : List Opcode :=
  [.send, .setCursor, .home, .clear, .printChar, .createChar, .scrollDisplayLeft, .scrollDisplayRight]

/-- The events of a control toggle; none where the register is `UNSPEC`. -/
def controlEvents (s : State) (bit : Byte) (set : Bool) : List Event :=
  (readControl s).elim [] fun old =>
    sendEvents s (s.params.codes.displayControl ||| toggleBits bit set old) .command

/-- The events of a mode toggle; none where the register is `UNSPEC`. -/
def modeEvents (s : State) (bit : Byte) (set : Bool) : List Event :=
  (readMode s).elim [] fun old =>
    sendEvents s (s.params.codes.entryModeSet ||| toggleBits bit set old) .command

/-- The events of an operation that comes to its end without a fault. -/
def operationEvents (s : State) : Instr → List Event
  | .send value mode => sendEvents s value mode
  | .display => controlEvents s 0x04#8 true
  | .noDisplay => controlEvents s 0x04#8 false
  | .cursor => controlEvents s 0x02#8 true
  | .noCursor => controlEvents s 0x02#8 false
  | .blink => controlEvents s 0x01#8 true
  | .noBlink => controlEvents s 0x01#8 false
  | .leftToRight => modeEvents s 0x02#8 true
  | .rightToLeft => modeEvents s 0x02#8 false
  | .autoscroll => modeEvents s 0x01#8 true
  | .noAutoscroll => modeEvents s 0x01#8 false
  | .setCursor col row =>
    sendEvents s (ddramCmd (rowBase s (clampRow s.cfg row)) (clampCol s.cfg col)) .command
  | .home => sendEvents s 0x02#8 .command
  | .clear => sendEvents s 0x01#8 .command
  | .begin => beginEvents s (readFunction s)
  | .setBacklight v => [.write s.cfg.addr (compose s.params.pins 0x0#4 false false v)]
  | .printChar code => sendEvents s code .data
  | .createChar location charmap =>
    glyphEvents s location charmap ++
      if s.params.createCharRestores then
        sendEvents s (ddramCmd (rowBase s (s.cursorRow.getD 0)) (s.cursorCol.getD 0)) .command
      else []
  | .scrollDisplayLeft => sendEvents s 0x18#8 .command
  | .scrollDisplayRight => sendEvents s 0x1C#8 .command
  | .getBacklight | .getCursor | .getFunction | .getControl | .getMode => []

/-- `Before s i u`: `u` is `s` with what operation `i` writes before its first event. -/
inductive Before (s : State) (i : Instr) : State → Prop
  | nothing (h : i.opcode ∈ plainOpcodes) : Before s i s
  | control (v : Byte) (hv : v &&& controlBits = v) (hi : i.opcode ∈ controlOpcodes) (hs : s.controlReg ≠ none) :
      Before s i { s with controlReg := some v }
  | mode (v : Byte) (hv : v &&& modeBits = v) (hi : i.opcode ∈ modeOpcodes) (hs : s.modeReg ≠ none) :
      Before s i { s with modeReg := some v }
  | light (v : Bool) (hi : i = .setBacklight v) : Before s i { s with backlight := v }

/-- `After s i k`: `k` is what operation `i` writes after its last event. -/
inductive After (s : State) (i : Instr) : (State → State) → Prop
  | nothing : After s i id
  | cursor (c r : Byte) (hi : i.opcode ∈ [.setCursor, .home, .clear]) :
      After s i (writeCursor (clampCol s.cfg c) (clampRow s.cfg r))
  | column (c : Byte) (hi : i.opcode = .printChar) (hs : s.cursorCol ≠ none) :
      After s i (writeCursorCol (advanceCol s.cfg c))

/-- The states operation `i` can leave, from `s`. -/
inductive Settles (s : State) (i : Instr) : State → Prop
  /-- It read an `UNSPEC` field. -/
  | uninit (name : FieldName) (hi : i.opcode ≠ .begin) : Settles s i (s.afterUninitRead name)
  /-- It answered. -/
  | query (v : Response) (hi : i.opcode ∈ queryOpcodes) : Settles s i (advance i.length (respond v s))
  /-- It came to its end. -/
  | ended (u : State) (k : State → State) (hu : Before s i u) (hk : After s i k) (hi : i.opcode ∉ .begin :: queryOpcodes) :
      Settles s i (advance i.length (k (u.afterEvents (operationEvents s i))))
  /-- Its write `j` failed. -/
  | failed (u : State) (j : Nat) (b : Byte) (hu : Before s i u) (hj : j < writeCount (operationEvents s i))
      (hl : (uptoWrite j (operationEvents s i)).getLast? = some (.write s.cfg.addr b))
      (hi : i.opcode ∉ .begin :: queryOpcodes) : Settles s i (u.afterFailedWrite j (operationEvents s i) b)
  /-- BEGIN came to its end. -/
  | began (hi : i = .begin) :
      Settles s i (advance 1 (writeCursor 0#8 0#8
        (midBegin s (beginEvents s (readFunction s)) (some 0x04#8) (some 0x02#8))))
  /-- BEGIN's write `j` failed. -/
  | beginFailed (j : Nat) (b : Byte) (hi : i = .begin) (hj : j < 36)
      (hl : (uptoWrite j (beginEvents s (readFunction s))).getLast? = some (.write s.cfg.addr b)) :
      Settles s i { s.afterFailedWrite j (beginEvents s (readFunction s)) b with
        controlReg := if j < 18 then s.controlReg else some 0x04#8
        modeReg := if j < 24 then s.modeReg else some 0x02#8 }

/-- What no operation writes before its events. -/
theorem Before.frame {s u : State} {i : Instr} (h : Before s i u) :
    u.cfg = s.cfg ∧ u.params = s.params ∧ u.rowOffset = s.rowOffset ∧ u.functionReg = s.functionReg ∧
    u.prog = s.prog ∧ u.trace = s.trace ∧ u.resp = s.resp ∧ u.faults = s.faults ∧ u.pc = s.pc ∧
    u.halted = s.halted ∧ u.cursorCol = s.cursorCol ∧ u.cursorRow = s.cursorRow ∧ u.latch = s.latch := by
  cases h <;> simp

theorem settles_plain {s : State} {i : Instr} {p : Progress} {k : State → State}
    (h : Plays (operationEvents s i) s p) (hk : After s i k) (hi : i.opcode ∈ plainOpcodes) :
    Settles s i (p.andThen fun t => finish i.length (k t)).settle := by
  have hn : i.opcode ∉ .begin :: queryOpcodes := by revert hi; cases i.opcode <;> decide
  rcases settle_plays h i.length k with h | ⟨j, b, hj, hl, h⟩ <;> rw [h]
  · exact .ended s k (.nothing hi) hk hn
  · exact .failed s j b (.nothing hi) hj hl hn

theorem settles_control {s : State} {i : Instr} {bit : Byte} {set : Bool} (hb : bit &&& controlBits = bit)
    (hev : operationEvents s i = controlEvents s bit set) (hi : i.opcode ∈ controlOpcodes) (hlen : i.length = 1) :
    Settles s i (toggleControl bit set s).settle := by
  have hn : i.opcode ∉ .begin :: queryOpcodes := by revert hi; cases i.opcode <;> decide
  cases ho : readControl s with
  | none =>
    simp only [toggleControl, ho]
    exact .uninit _ (by intro h; simp [h] at hn)
  | some old =>
    obtain ⟨x, rfl⟩ := readControl_masked ho
    obtain ⟨p, hp, ht⟩ := toggleControl_plays (set := set) ho hb
    rw [controlEvents, ho, Option.elim_some] at hev
    rw [← hev] at hp
    have hu : Before s i { s with controlReg := some (toggleBits bit set (x &&& controlBits)) } :=
      .control _ (toggleBits_and_mask x _ _ _ hb) hi (by intro h; simp [readControl, h] at ho)
    rw [ht, ← hlen]
    rcases settle_plays hp i.length id with h | ⟨j, b, hj, hl, h⟩
    · exact h ▸ Settles.ended _ id hu .nothing hn
    · exact h ▸ Settles.failed _ j b hu hj hl hn

theorem settles_mode {s : State} {i : Instr} {bit : Byte} {set : Bool} (hb : bit &&& modeBits = bit)
    (hev : operationEvents s i = modeEvents s bit set) (hi : i.opcode ∈ modeOpcodes) (hlen : i.length = 1) :
    Settles s i (toggleMode bit set s).settle := by
  have hn : i.opcode ∉ .begin :: queryOpcodes := by revert hi; cases i.opcode <;> decide
  cases ho : readMode s with
  | none =>
    simp only [toggleMode, ho]
    exact .uninit _ (by intro h; simp [h] at hn)
  | some old =>
    obtain ⟨x, rfl⟩ := readMode_masked ho
    obtain ⟨p, hp, ht⟩ := toggleMode_plays (set := set) ho hb
    rw [modeEvents, ho, Option.elim_some] at hev
    rw [← hev] at hp
    have hu : Before s i { s with modeReg := some (toggleBits bit set (x &&& modeBits)) } :=
      .mode _ (toggleBits_and_mask x _ _ _ hb) hi (by intro h; simp [readMode, h] at ho)
    rw [ht, ← hlen]
    rcases settle_plays hp i.length id with h | ⟨j, b, hj, hl, h⟩
    · exact h ▸ Settles.ended _ id hu .nothing hn
    · exact h ▸ Settles.failed _ j b hu hj hl hn

/-- HOME and CLEAR as one line after the emit. -/
theorem emitThenOrigin_andThen (v : Byte) (s : State) :
    (emitThenOrigin v s).andThen (finish 1) =
      (emit v .command s).andThen fun t => finish 1 (writeCursor (clampCol s.cfg 0#8) (clampRow s.cfg 0#8) t) := by
  rw [clampCol_zero, clampRow_zero]
  unfold emitThenOrigin
  cases emit v .command s <;> rfl

theorem settles_printChar (code : Byte) (s : State) :
    ∃ t, exec (.printChar code) s = .next t ∧ Settles s (.printChar code) t := by
  simp only [exec, execPrintChar]
  cases hc : s.cursorCol with
  | none => exact ⟨_, rfl, .uninit _ (by simp [Instr.opcode])⟩
  | some c0 =>
    refine ⟨_, rfl, ?_⟩
    have hp := emit_plays code .data s
    have e : ((emit code .data s).andThen fun s1 => finish 1 (writeCursorCol (advanceCol s1.cfg c0) s1)) =
        (emit code .data s).andThen fun s1 => finish 1 (writeCursorCol (advanceCol s.cfg c0) s1) := by
      obtain ⟨-, h⟩ | ⟨j, b, -, -, -, -, h⟩ := hp <;> rw [h] <;> rfl
    rw [e]
    exact settles_plain (i := .printChar code) hp (.column c0 rfl (by simp [hc])) (by simp [Instr.opcode])

theorem settles_createChar (location : Byte) (charmap : List Byte) (s : State) :
    ∃ t, exec (.createChar location charmap) s = .next t ∧ Settles s (.createChar location charmap) t := by
  simp only [exec, execCreateChar]
  refine ⟨_, rfl, ?_⟩
  have hg := emitGlyph_plays location charmap s
  have hfin : ∀ p, Plays (operationEvents s (.createChar location charmap)) s p →
      Settles s (.createChar location charmap) (p.andThen (finish (1 + charmap.length))).settle :=
    fun p hp => settles_plain (i := .createChar location charmap) hp .nothing (by simp [Instr.opcode])
  unfold createCharBody
  by_cases hr : s.params.createCharRestores = true
  · rw [if_pos hr]
    cases hc : s.cursorCol with
    | none => exact .uninit _ (by simp [Instr.opcode])
    | some c =>
      cases hrow : s.cursorRow with
      | none => exact .uninit _ (by simp [Instr.opcode])
      | some r =>
        refine hfin _ ?_
        have e : operationEvents s (.createChar location charmap) =
            glyphEvents s location charmap ++ sendEvents s (ddramCmd (rowBase s r) c) .command := by
          show _ ++ (if _ then _ else _) = _
          rw [if_pos hr, hc, hrow]
          rfl
        rw [e]
        exact hg.andThen (emit_plays (ddramCmd (rowBase s r) c) .command (s.afterEvents (glyphEvents s location charmap)))
  · rw [if_neg hr]
    refine hfin _ ?_
    have e : operationEvents s (.createChar location charmap) = glyphEvents s location charmap := by
      show _ ++ (if _ then _ else _) = _
      rw [if_neg hr, List.append_nil]
    rw [e]
    exact hg

theorem settles_setBacklight (v : Bool) (s : State) :
    ∃ t, exec (.setBacklight v) s = .next t ∧ Settles s (.setBacklight v) t := by
  refine ⟨_, rfl, ?_⟩
  have hp := plays_busWrite (compose s.params.pins 0x0#4 false false v) (writeBacklight v s)
  rcases settle_plays hp 1 id with h | ⟨j, b, hj, hl, h⟩
  · exact h.symm ▸ Settles.ended (i := .setBacklight v) { s with backlight := v } id (.light v rfl) .nothing
      (by simp [Instr.opcode])
  · exact h.symm ▸ Settles.failed (i := .setBacklight v) { s with backlight := v } j b (.light v rfl) hj hl
      (by simp [Instr.opcode])

theorem settles_respondRegister (i : Instr) (hi : i.opcode ∈ queryOpcodes) (hlen : i.length = 1) (name : FieldName)
    (v : Option Byte) (s : State) : Settles s i (respondRegister name v s).settle := by
  cases v with
  | none => exact .uninit name (by intro h; rw [h] at hi; revert hi; decide)
  | some v => exact (show Settles s i (advance 1 _) from hlen ▸ Settles.query (zext16 v) hi)

/-- Every operation answers a next state, and this is what it can be. -/
theorem exec_settles (i : Instr) (s : State) : ∃ t, exec i s = .next t ∧ Settles s i t := by
  cases i with
  | send value mode =>
    exact ⟨_, rfl, settles_plain (i := .send value mode) (emit_plays value mode s) .nothing (by simp [Instr.opcode])⟩
  | display => exact ⟨_, rfl, settles_control (i := .display) (bit := 0x04#8) rfl rfl (by decide) rfl⟩
  | noDisplay => exact ⟨_, rfl, settles_control (i := .noDisplay) (bit := 0x04#8) rfl rfl (by decide) rfl⟩
  | cursor => exact ⟨_, rfl, settles_control (i := .cursor) (bit := 0x02#8) rfl rfl (by decide) rfl⟩
  | noCursor => exact ⟨_, rfl, settles_control (i := .noCursor) (bit := 0x02#8) rfl rfl (by decide) rfl⟩
  | blink => exact ⟨_, rfl, settles_control (i := .blink) (bit := 0x01#8) rfl rfl (by decide) rfl⟩
  | noBlink => exact ⟨_, rfl, settles_control (i := .noBlink) (bit := 0x01#8) rfl rfl (by decide) rfl⟩
  | leftToRight => exact ⟨_, rfl, settles_mode (i := .leftToRight) (bit := 0x02#8) rfl rfl (by decide) rfl⟩
  | rightToLeft => exact ⟨_, rfl, settles_mode (i := .rightToLeft) (bit := 0x02#8) rfl rfl (by decide) rfl⟩
  | autoscroll => exact ⟨_, rfl, settles_mode (i := .autoscroll) (bit := 0x01#8) rfl rfl (by decide) rfl⟩
  | noAutoscroll => exact ⟨_, rfl, settles_mode (i := .noAutoscroll) (bit := 0x01#8) rfl rfl (by decide) rfl⟩
  | setCursor col row =>
    exact ⟨_, rfl, settles_plain (i := .setCursor col row) (emit_plays _ .command s) (.cursor col row (by simp [Instr.opcode]))
      (by simp [Instr.opcode])⟩
  | home =>
    refine ⟨_, rfl, ?_⟩
    rw [emitThenOrigin_andThen]
    exact settles_plain (i := .home) (emit_plays 0x02#8 .command s) (.cursor 0#8 0#8 (by decide)) (by decide)
  | clear =>
    refine ⟨_, rfl, ?_⟩
    rw [emitThenOrigin_andThen]
    exact settles_plain (i := .clear) (emit_plays 0x01#8 .command s) (.cursor 0#8 0#8 (by decide)) (by decide)
  | begin =>
    refine ⟨_, rfl, ?_⟩
    rcases beginBody_cases s with ⟨-, h⟩ | ⟨j, b, hj, -, -, hl, h⟩ <;> rw [h]
    · exact .began rfl
    · exact .beginFailed j b rfl hj hl
  | setBacklight v => exact settles_setBacklight v s
  | getBacklight => exact ⟨_, rfl, .query _ (by decide)⟩
  | printChar code => exact settles_printChar code s
  | createChar location charmap => exact settles_createChar location charmap s
  | scrollDisplayLeft =>
    exact ⟨_, rfl, settles_plain (i := .scrollDisplayLeft) (emit_plays 0x18#8 .command s) .nothing (by decide)⟩
  | scrollDisplayRight =>
    exact ⟨_, rfl, settles_plain (i := .scrollDisplayRight) (emit_plays 0x1C#8 .command s) .nothing (by decide)⟩
  | getCursor =>
    refine ⟨_, rfl, ?_⟩
    unfold getCursorBody
    cases s.cursorCol with
    | none => exact .uninit _ (by decide)
    | some c =>
      cases s.cursorRow with
      | none => exact .uninit _ (by decide)
      | some r => exact .query _ (by decide)
  | getFunction => exact ⟨_, rfl, .query _ (by decide)⟩
  | getControl => exact ⟨_, rfl, settles_respondRegister .getControl (by decide) rfl _ _ s⟩
  | getMode => exact ⟨_, rfl, settles_respondRegister .getMode (by decide) rfl _ _ s⟩

end Sys2Proof.Laws
end

