-- ==== Sys2Proof/Laws/PerInstr.lean ====
section
/-! SUPPORT. One lemma per operation about its encoding (R90, R92, R93): how many words it takes, that its first word
carries its opcode byte and tells the length by itself, and that its reserved fields hold their constants. -/

namespace Sys2Proof.Laws.EncodedShape

/-- What each operation's encoding looks like. -/
def Statement (i : Instr) : Prop :=
  (encode i).length = i.length ∧
  decodeOpcode (packWord i.opcode.code i.fields.1 i.fields.2.1 i.fields.2.2) = some i.opcode ∧
  (i.WellFormed → wordLength ((encode i).headD 0) = i.length)

theorem send (value : Byte) (mode : SendMode) : Statement (.send value mode) := 
  ⟨length_encode _, decodeOpcode_packWord _ _ _ _ (reservedOk_fields (.send value mode)),
    fun _ => by simp [encode, wordLength, Instr.opcode, Opcode.code, Instr.length]⟩

theorem display : Statement .display := 
  ⟨length_encode _, decodeOpcode_packWord _ _ _ _ (reservedOk_fields .display),
    fun _ => by simp [encode, wordLength, Instr.opcode, Opcode.code, Instr.length]⟩

theorem noDisplay : Statement .noDisplay := 
  ⟨length_encode _, decodeOpcode_packWord _ _ _ _ (reservedOk_fields .noDisplay),
    fun _ => by simp [encode, wordLength, Instr.opcode, Opcode.code, Instr.length]⟩

theorem cursor : Statement .cursor := 
  ⟨length_encode _, decodeOpcode_packWord _ _ _ _ (reservedOk_fields .cursor),
    fun _ => by simp [encode, wordLength, Instr.opcode, Opcode.code, Instr.length]⟩

theorem noCursor : Statement .noCursor := 
  ⟨length_encode _, decodeOpcode_packWord _ _ _ _ (reservedOk_fields .noCursor),
    fun _ => by simp [encode, wordLength, Instr.opcode, Opcode.code, Instr.length]⟩

theorem blink : Statement .blink := 
  ⟨length_encode _, decodeOpcode_packWord _ _ _ _ (reservedOk_fields .blink),
    fun _ => by simp [encode, wordLength, Instr.opcode, Opcode.code, Instr.length]⟩

theorem noBlink : Statement .noBlink := 
  ⟨length_encode _, decodeOpcode_packWord _ _ _ _ (reservedOk_fields .noBlink),
    fun _ => by simp [encode, wordLength, Instr.opcode, Opcode.code, Instr.length]⟩

theorem leftToRight : Statement .leftToRight := 
  ⟨length_encode _, decodeOpcode_packWord _ _ _ _ (reservedOk_fields .leftToRight),
    fun _ => by simp [encode, wordLength, Instr.opcode, Opcode.code, Instr.length]⟩

theorem rightToLeft : Statement .rightToLeft := 
  ⟨length_encode _, decodeOpcode_packWord _ _ _ _ (reservedOk_fields .rightToLeft),
    fun _ => by simp [encode, wordLength, Instr.opcode, Opcode.code, Instr.length]⟩

theorem autoscroll : Statement .autoscroll := 
  ⟨length_encode _, decodeOpcode_packWord _ _ _ _ (reservedOk_fields .autoscroll),
    fun _ => by simp [encode, wordLength, Instr.opcode, Opcode.code, Instr.length]⟩

theorem noAutoscroll : Statement .noAutoscroll := 
  ⟨length_encode _, decodeOpcode_packWord _ _ _ _ (reservedOk_fields .noAutoscroll),
    fun _ => by simp [encode, wordLength, Instr.opcode, Opcode.code, Instr.length]⟩

theorem setCursor (col : Byte) (row : Byte) : Statement (.setCursor col row) := 
  ⟨length_encode _, decodeOpcode_packWord _ _ _ _ (reservedOk_fields (.setCursor col row)),
    fun _ => by simp [encode, wordLength, Instr.opcode, Opcode.code, Instr.length]⟩

theorem home : Statement .home := 
  ⟨length_encode _, decodeOpcode_packWord _ _ _ _ (reservedOk_fields .home),
    fun _ => by simp [encode, wordLength, Instr.opcode, Opcode.code, Instr.length]⟩

theorem clear : Statement .clear := 
  ⟨length_encode _, decodeOpcode_packWord _ _ _ _ (reservedOk_fields .clear),
    fun _ => by simp [encode, wordLength, Instr.opcode, Opcode.code, Instr.length]⟩

theorem begin : Statement .begin := 
  ⟨length_encode _, decodeOpcode_packWord _ _ _ _ (reservedOk_fields .begin),
    fun _ => by simp [encode, wordLength, Instr.opcode, Opcode.code, Instr.length]⟩

theorem setBacklight (v : Bool) : Statement (.setBacklight v) := 
  ⟨length_encode _, decodeOpcode_packWord _ _ _ _ (reservedOk_fields (.setBacklight v)),
    fun _ => by simp [encode, wordLength, Instr.opcode, Opcode.code, Instr.length]⟩

theorem getBacklight : Statement .getBacklight := 
  ⟨length_encode _, decodeOpcode_packWord _ _ _ _ (reservedOk_fields .getBacklight),
    fun _ => by simp [encode, wordLength, Instr.opcode, Opcode.code, Instr.length]⟩

theorem printChar (code : Byte) : Statement (.printChar code) := 
  ⟨length_encode _, decodeOpcode_packWord _ _ _ _ (reservedOk_fields (.printChar code)),
    fun _ => by simp [encode, wordLength, Instr.opcode, Opcode.code, Instr.length]⟩

theorem createChar (location : Byte) (charmap : List Byte) : Statement (.createChar location charmap) := by
  refine ⟨length_encode _, decodeOpcode_packWord _ _ _ _ (reservedOk_fields (.createChar location charmap)), ?_⟩
  intro h
  have : charmap.length ≤ 255 := by simpa [Instr.WellFormed, Instr.wellFormed] using h
  simp [encode, wordLength, Instr.opcode, Opcode.code, Instr.fields, Instr.length]
  omega

theorem scrollDisplayLeft : Statement .scrollDisplayLeft := 
  ⟨length_encode _, decodeOpcode_packWord _ _ _ _ (reservedOk_fields .scrollDisplayLeft),
    fun _ => by simp [encode, wordLength, Instr.opcode, Opcode.code, Instr.length]⟩

theorem scrollDisplayRight : Statement .scrollDisplayRight := 
  ⟨length_encode _, decodeOpcode_packWord _ _ _ _ (reservedOk_fields .scrollDisplayRight),
    fun _ => by simp [encode, wordLength, Instr.opcode, Opcode.code, Instr.length]⟩

theorem getCursor : Statement .getCursor := 
  ⟨length_encode _, decodeOpcode_packWord _ _ _ _ (reservedOk_fields .getCursor),
    fun _ => by simp [encode, wordLength, Instr.opcode, Opcode.code, Instr.length]⟩

theorem getFunction : Statement .getFunction := 
  ⟨length_encode _, decodeOpcode_packWord _ _ _ _ (reservedOk_fields .getFunction),
    fun _ => by simp [encode, wordLength, Instr.opcode, Opcode.code, Instr.length]⟩

theorem getControl : Statement .getControl := 
  ⟨length_encode _, decodeOpcode_packWord _ _ _ _ (reservedOk_fields .getControl),
    fun _ => by simp [encode, wordLength, Instr.opcode, Opcode.code, Instr.length]⟩

theorem getMode : Statement .getMode := 
  ⟨length_encode _, decodeOpcode_packWord _ _ _ _ (reservedOk_fields .getMode),
    fun _ => by simp [encode, wordLength, Instr.opcode, Opcode.code, Instr.length]⟩

end Sys2Proof.Laws.EncodedShape
end

