-- ==== Sys2Proof/Tests/Slice0.lean ====
section
/-! SUPPORT. The model's own tests. Words and expected bytes are written out from the encodings of 30_encoding.md
(R90, R93) and the vectors of 95_test_vectors.md, whose ids (V-SE-1 and so on) stand beside them; then one witness
theorem for each obligation that has hypotheses. -/

namespace Sys2Proof.Tests

open Sys2Proof.Machine

/-! ## Helpers -/

/-- The reset state with the next 64 writes answered `Ok`. -/
def blank : State := { State.reset with answers := List.replicate 64 .ok }

/-- The shadow state of a block after BEGIN (V-BEGIN-1), with the next 64 writes answered `Ok`. -/
def ready : State :=
  { blank with controlReg := some 0x04#8, modeReg := some 0x02#8, cursorCol := some 0#8, cursorRow := some 0#8 }

/-- `s` with the first `j` writes answered `Ok` and the next one `Fail`. -/
def failing (j : Nat) (s : State) : State := { s with answers := List.replicate j .ok ++ [.fail] }

/-- `s` on a display of `rows` rows and `cols` columns. -/
def sized (rows : RowCount) (cols : BitVec 8) (s : State) : State :=
  { s with cfg := { s.cfg with rows := rows, cols := cols }, rowOffset := rowOffsetTable rows cols
           functionReg := functionInit rows s.cfg.charsize }

/-- `s` with the restoring CREATE_CHAR (R11). -/
def restoring (s : State) : State := { s with params := { s.params with createCharRestores := true } }

/-- `s` with a stream at whose start it stands. -/
def loaded (ws : List Word) (s : State) : State := { s with prog := ws }

/-- The bytes written, in order. -/
def writtenBytes : List Event → List Byte
  | [] => []
  | .write _ b :: es => b :: writtenBytes es
  | .wait _ :: es => writtenBytes es

/-- One step from the start of a stream: the state after it, if there is one. -/
def stepOn (ws : List Word) (s : State) : Option State :=
  match step (loaded ws s) with
  | .next t => some t
  | .fault _ => none
  | .refused _ => none

/-- The bytes one step writes. -/
def bytesOf (ws : List Word) (s : State) : Option (List Byte) := (stepOn ws s).map fun t => writtenBytes t.trace

/-! ## Well-formedness -/

theorem test_charmap_of_255_is_well_formed : (Instr.createChar 0#8 (List.replicate 255 0#8)).wellFormed = true := by
  simp only [Instr.wellFormed, List.length_replicate]; decide

theorem test_charmap_of_256_is_refused : (Instr.createChar 0#8 (List.replicate 256 0#8)).wellFormed = false := by
  simp only [Instr.wellFormed, List.length_replicate]; decide

/-! ## Decoding: a word for every operation, from the tables of R90 and R93 -/

theorem test_decode_emitter : decode [0x01410100#32] = .decoded (.send 0x41#8 .data) [] ∧
    decode [0x01030000#32] = .decoded (.send 0x03#8 .command) [] := by decide

theorem test_decode_control_toggles :
    decode [0x10000000#32] = .decoded .display [] ∧ decode [0x11000000#32] = .decoded .noDisplay [] ∧
    decode [0x12000000#32] = .decoded .cursor [] ∧ decode [0x13000000#32] = .decoded .noCursor [] ∧
    decode [0x14000000#32] = .decoded .blink [] ∧ decode [0x15000000#32] = .decoded .noBlink [] := by decide

theorem test_decode_mode_toggles :
    decode [0x16000000#32] = .decoded .leftToRight [] ∧ decode [0x17000000#32] = .decoded .rightToLeft [] ∧
    decode [0x18000000#32] = .decoded .autoscroll [] ∧ decode [0x19000000#32] = .decoded .noAutoscroll [] := by decide

theorem test_decode_positioning :
    decode [0x1A0A0200#32] = .decoded (.setCursor 10#8 2#8) [] ∧ decode [0x1B000000#32] = .decoded .home [] ∧
    decode [0x1C000000#32] = .decoded .clear [] := by decide

theorem test_decode_begin_and_backlight :
    decode [0x20000000#32] = .decoded .begin [] ∧ decode [0x30010000#32] = .decoded (.setBacklight true) [] ∧
    decode [0x30000000#32] = .decoded (.setBacklight false) [] ∧
    decode [0x31000000#32] = .decoded .getBacklight [] := by decide

theorem test_decode_text :
    decode [0x40480000#32] = .decoded (.printChar 0x48#8) [] ∧
    decode [0x42000000#32] = .decoded .scrollDisplayLeft [] ∧
    decode [0x43000000#32] = .decoded .scrollDisplayRight [] := by decide

theorem test_decode_create_char :
    decode [0x41090100#32, 0x0000001F#32, 0x50000000#32] = .decoded (.createChar 9#8 [0x1F#8]) [0x50000000#32] ∧
    decode [0x41030000#32] = .decoded (.createChar 3#8 []) [] := by decide

theorem test_decode_queries :
    decode [0x50000000#32] = .decoded .getCursor [] ∧ decode [0x51000000#32] = .decoded .getFunction [] ∧
    decode [0x52000000#32] = .decoded .getControl [] ∧ decode [0x53000000#32] = .decoded .getMode [] := by decide

/-- The illegal words of section 2.10. -/
theorem test_decode_refuses_unassigned_opcodes :
    ([0x00000000#32, 0x02000000#32, 0x1D000000#32, 0x21000000#32, 0x32000000#32, 0x44000000#32, 0x54000000#32,
      0xFFFFFFFF#32].map decodeOpcode).all Option.isNone = true := by decide

/-- Section 2.10's last word, and V-SE-7, V-SE-8, V-TG-16, V-SC-10, V-BL-5, V-PR-7 and V-CC-8. -/
theorem test_decode_refuses_reserved_fields :
    ([0x51000100#32, 0x01000200#32, 0x01000001#32, 0x10000001#32, 0x1A000001#32, 0x30020000#32,
      0x40480001#32, 0x41000001#32].map decodeOpcode).all Option.isNone = true := by decide

/-- V-CC-6 and V-CC-7. -/
theorem test_decode_extension_words :
    decode [0x41000800#32, 0x00000000#32, 0x00000000#32, 0x00000000#32] = .short ∧
    decode [0x41000200#32, 0x00000001#32, 0x00000100#32] = .illegal 0x00000100#32 := by decide

/-- The table's numbering: the first word's bits, and extension words of zeros above them. -/
theorem test_decode_table_word :
    decodeTableWord 32 0x1A0A0200 = some (.setCursor 10#8 2#8) ∧
    decodeTableWord 32 0x41000200 = some (.createChar 0#8 [0#8, 0#8]) ∧ decodeTableWord 32 0x02000000 = none := by
  decide

/-! ## Assembly (R99, R100) -/

theorem test_assemble_operands :
    assembleLine "SEND 0x41, DATA ; comment" = some [.send 0x41#8 .data] ∧
    assembleLine "SET_CURSOR 10, 2" = some [.setCursor 10#8 2#8] ∧
    assembleLine "CREATE_CHAR 9, [0x1F, 4]" = some [.createChar 9#8 [0x1F#8, 4#8]] := by decide

theorem test_assemble_refuses :
    assembleLine "SET_CURSOR 256, 0" = none ∧ assembleLine "SET_CURSOR -1, 0" = none ∧
    assembleLine "SET_BACKLIGHT 2" = none ∧ assembleLine "display" = none := by decide

/-- The lines of P3 and part of P1, with the words written beside them. -/
theorem test_assemble_program :
    assemble ["BEGIN", "NO_BACKLIGHT", "PRINT \"Hi\"", "SET_CURSOR 0, 1", "CURSOR_POSITION"] =
      some [0x20000000#32, 0x30000000#32, 0x40480000#32, 0x40690000#32, 0x1A000100#32, 0x50000000#32] := by decide

/-! ## One step each -/

/-- V-SE-1 and V-SE-3. -/
theorem test_send : bytesOf [0x01410100#32] blank = some [0x49#8, 0x4D#8, 0x49#8, 0x19#8, 0x1D#8, 0x19#8] ∧
    (stepOn [0x01030000#32] blank).map (fun t => t.trace.getLast?) = some (some (.wait 1500000)) := by decide

/-- V-SE-10. -/
theorem test_send_fails_at_write_1 :
    (stepOn [0x01410100#32] (failing 1 blank)).map (fun t => (writtenBytes t.trace, t.faults, t.latch)) =
      some ([0x49#8, 0x4D#8], [(0, .transportFailure 0x4D#8)], none) := by decide

/-- V-TG-1 and V-TG-2. -/
theorem test_display :
    bytesOf [0x10000000#32] ready = some [0x08#8, 0x0C#8, 0x08#8, 0xC8#8, 0xCC#8, 0xC8#8] ∧
    (stepOn [0x11000000#32] ready).map (fun t => t.controlReg) = some (some 0x00#8) := by decide

/-- V-TG-3 and V-TG-4. -/
theorem test_cursor :
    bytesOf [0x12000000#32] ready = some [0x08#8, 0x0C#8, 0x08#8, 0xE8#8, 0xEC#8, 0xE8#8] ∧
    (stepOn [0x13000000#32] ready).map (fun t => t.controlReg) = some (some 0x04#8) := by decide

/-- V-TG-5 and V-TG-6. -/
theorem test_blink :
    bytesOf [0x14000000#32] ready = some [0x08#8, 0x0C#8, 0x08#8, 0xD8#8, 0xDC#8, 0xD8#8] ∧
    (stepOn [0x15000000#32] ready).map (fun t => t.controlReg) = some (some 0x04#8) := by decide

/-- V-TG-7 and V-TG-8. -/
theorem test_direction :
    bytesOf [0x16000000#32] ready = some [0x08#8, 0x0C#8, 0x08#8, 0x68#8, 0x6C#8, 0x68#8] ∧
    bytesOf [0x17000000#32] ready = some [0x08#8, 0x0C#8, 0x08#8, 0x48#8, 0x4C#8, 0x48#8] ∧
    (stepOn [0x17000000#32] ready).map (fun t => t.modeReg) = some (some 0x00#8) := by decide

/-- V-TG-9 and V-TG-10. -/
theorem test_autoscroll :
    bytesOf [0x18000000#32] ready = some [0x08#8, 0x0C#8, 0x08#8, 0x78#8, 0x7C#8, 0x78#8] ∧
    (stepOn [0x18000000#32] ready).map (fun t => t.modeReg) = some (some 0x03#8) ∧
    bytesOf [0x19000000#32] ready = some [0x08#8, 0x0C#8, 0x08#8, 0x68#8, 0x6C#8, 0x68#8] := by decide

/-- V-SC-1, V-SC-4 and V-SC-8. -/
theorem test_set_cursor :
    bytesOf [0x1A0A0200#32] blank = some [0xC8#8, 0xCC#8, 0xC8#8, 0xA8#8, 0xAC#8, 0xA8#8] ∧
    (stepOn [0x1AFFFF00#32] (sized .four 20#8 blank)).map (fun t => (t.cursorCol, t.cursorRow)) =
      some (some 19#8, some 3#8) ∧
    bytesOf [0x1AFE0300#32] (sized .four 255#8 blank) = some [0xB8#8, 0xBC#8, 0xB8#8, 0xD8#8, 0xDC#8, 0xD8#8] := by
  decide

/-- V-HM-1 and V-CL-1. -/
theorem test_home_and_clear :
    bytesOf [0x1B000000#32] blank = some [0x08#8, 0x0C#8, 0x08#8, 0x28#8, 0x2C#8, 0x28#8] ∧
    bytesOf [0x1C000000#32] blank = some [0x08#8, 0x0C#8, 0x08#8, 0x18#8, 0x1C#8, 0x18#8] := by decide

/-- V-BEGIN-1. -/
theorem test_begin :
    bytesOf [0x20000000#32] blank = some (
      [0x38#8, 0x3C#8, 0x38#8, 0x38#8, 0x3C#8, 0x38#8, 0x38#8, 0x3C#8, 0x38#8, 0x28#8, 0x2C#8, 0x28#8] ++
      [0x28#8, 0x2C#8, 0x28#8, 0x88#8, 0x8C#8, 0x88#8, 0x08#8, 0x0C#8, 0x08#8, 0xC8#8, 0xCC#8, 0xC8#8] ++
      [0x08#8, 0x0C#8, 0x08#8, 0x68#8, 0x6C#8, 0x68#8, 0x08#8, 0x0C#8, 0x08#8, 0x18#8, 0x1C#8, 0x18#8]) := by decide

/-- V-BG-7: write 13 fails. -/
theorem test_begin_fails_in_function_set :
    (stepOn [0x20000000#32] (failing 13 blank)).map (fun t => (t.faults, t.controlReg, writeCount t.trace)) =
      some ([(0, .transportFailure 0x2C#8)], none, 14) := by decide

/-- V-BL-1 and V-BL-4. -/
theorem test_backlight :
    (stepOn [0x30000000#32] blank).map (fun t => (t.trace, t.backlight)) =
      some ([.write 0x27#7 0x00#8], false) ∧
    (stepOn [0x31000000#32] blank).map (fun t => t.resp) = some [0x0001#16] := by decide

/-- V-PR-1 and V-PR-3. -/
theorem test_print_char :
    bytesOf [0x40480000#32] ready = some [0x49#8, 0x4D#8, 0x49#8, 0x89#8, 0x8D#8, 0x89#8] ∧
    (stepOn [0x40210000#32] { ready with cursorCol := some 15#8 }).map (fun t => t.cursorCol) = some (some 15#8) := by
  decide

/-- V-CC-2, and V-CC-4 with its restore. -/
theorem test_create_char :
    bytesOf [0x41090100#32, 0x0000001F#32] blank = some
      [0x78#8, 0x7C#8, 0x78#8, 0x88#8, 0x8C#8, 0x88#8, 0x19#8, 0x1D#8, 0x19#8, 0xF9#8, 0xFD#8, 0xF9#8] ∧
    bytesOf [0x41010100#32, 0x000000FF#32] { restoring blank with cursorCol := some 5#8, cursorRow := some 1#8 } = some
      [0x48#8, 0x4C#8, 0x48#8, 0x88#8, 0x8C#8, 0x88#8, 0xF9#8, 0xFD#8, 0xF9#8, 0xF9#8, 0xFD#8, 0xF9#8,
       0xC8#8, 0xCC#8, 0xC8#8, 0x58#8, 0x5C#8, 0x58#8] := by decide

/-- V-SH-1 and V-SH-2. -/
theorem test_display_shifts :
    bytesOf [0x42000000#32] blank = some [0x18#8, 0x1C#8, 0x18#8, 0x88#8, 0x8C#8, 0x88#8] ∧
    bytesOf [0x43000000#32] blank = some [0x18#8, 0x1C#8, 0x18#8, 0xC8#8, 0xCC#8, 0xC8#8] := by decide

/-- V-Q-1 and V-Q-2; the cursor answer of V-SC-3. -/
theorem test_queries :
    (stepOn [0x50000000#32] { ready with cursorCol := some 19#8, cursorRow := some 3#8 }).map (fun t => t.resp) =
      some [0x1303#16] ∧
    (stepOn [0x51000000#32] blank).map (fun t => t.resp) = some [0x0008#16] ∧
    (stepOn [0x52000000#32] ready).map (fun t => t.resp) = some [0x0004#16] ∧
    (stepOn [0x53000000#32] ready).map (fun t => t.resp) = some [0x0002#16] := by decide

/-- V-TG-14, V-TG-17 and V-PR-6: a read of `UNSPEC` faults, and an illegal word comes before it. -/
theorem test_faults_at_reset :
    (stepOn [0x10000000#32] blank).map (fun t => (t.faults, t.trace, t.pc)) =
      some ([(0, .uninitRead .control)], [], 0) ∧
    (stepOn [0x10010000#32] blank).map (fun t => t.faults) = some [(0, .illegalOp 0x10010000#32)] ∧
    (stepOn [0x40480000#32] blank).map (fun t => t.faults) = some [(0, .uninitRead .cursor)] := by decide

/-! ## Reset and the host's loader -/

/-- R240, and the values the model names (log 2). -/
theorem test_reset :
    State.reset.cfg.addr = 0x27#7 ∧ State.reset.rowOffset = [0x00#9, 0x40#9] ∧ State.reset.functionReg = 0x08#8 ∧
    State.reset.backlight = true ∧ State.reset.controlReg = none ∧ State.reset.pc = 0 := by decide

/-- From reset with nothing placed the first step completes the run (R215). -/
theorem test_reset_run_completes : step State.reset = .next { State.reset with halted := true } := rfl

/-- A placed word is the next step's operation: CREATE_CHAR with its two extension words of zeros. -/
theorem test_with_fetch_word :
    (State.reset.withFetchWord 32 0x41000200).prog = [0x41000200#32, 0#32, 0#32] ∧
    fetch (State.reset.withFetchWord 32 0x41000200) = .decoded (.createChar 0#8 [0#8, 0#8]) [] ∧
    fetch ({ State.reset with pc := 3, halted := true }.withFetchWord 32 0x12000000) = .decoded .cursor [] := by decide

/-! ## Witnesses: concrete states and operands that meet every hypothesis of an obligation -/

theorem witness_ConstructionLeavesTheResetState :
    checkConfig { addr := 0x27, cols := 16, rows := 2, charsize := 0, bus := none, i2cFreqMax := none } =
      .ok defaultConfig := by rfl

/-- Accepted and refused at the bounds of each parameter. -/
theorem witness_ConstructionRefusesExactlyIllegalConfigurations :
    (checkConfig { addr := 0x7F, cols := 255, rows := 4, charsize := 1, bus := some 1, i2cFreqMax := none } =
      .ok { addr := 0x7F#7, cols := 255#8, rows := .four, charsize := .dots5x10, bus := some 1, i2cFreqMax := none }) ∧
    checkConfig { addr := 0, cols := 1, rows := 3, charsize := 0, bus := none, i2cFreqMax := none } = .error .rows ∧
    checkConfig { addr := 0, cols := 256, rows := 1, charsize := 0, bus := none, i2cFreqMax := none } = .error .cols ∧
    checkConfig { addr := 0, cols := 0, rows := 1, charsize := 0, bus := none, i2cFreqMax := none } = .error .cols ∧
    checkConfig { addr := 0x80, cols := 1, rows := 1, charsize := 0, bus := none, i2cFreqMax := none } = .error .addr ∧
    checkConfig { addr := 0, cols := 1, rows := 1, charsize := 2, bus := none, i2cFreqMax := none } =
      .error .charsize := ⟨rfl, rfl, rfl, rfl, rfl, rfl⟩

theorem witness_RowOffsetTableEntries : ∃ t, step (loaded [0x1C000000#32] blank) = .next t := ⟨_, rfl⟩

/-- A one-row, a two-row and a four-row table. -/
theorem witness_RowLookupIsClamped :
    blank.rowOffset = rowOffsetTable blank.cfg.rows blank.cfg.cols ∧
    (sized .one 16#8 blank).rowOffset = rowOffsetTable .one 16#8 ∧
    (sized .four 255#8 blank).rowOffset = rowOffsetTable .four 255#8 := by decide

theorem witness_LaunchStartsAtWordZero :
    decode [0x1C000000#32, 0x50000000#32] = .decoded .clear [0x50000000#32] := by decide

theorem witness_DecodeOfEncodeIsTheOperation :
    (Instr.send 0xFF#8 .data).WellFormed ∧ (Instr.createChar 0xFF#8 (List.replicate 255 0xFF#8)).WellFormed := by
  constructor
  · decide
  · simp only [Instr.WellFormed, Instr.wellFormed, List.length_replicate]; decide

theorem witness_DecodedWordsAreTheEncoding :
    decode [0x41090100#32, 0x0000001F#32, 0x00000000#32] = .decoded (.createChar 9#8 [0x1F#8]) [0x00000000#32] := by
  decide

theorem witness_FirstWordTellsTheLength :
    decode [0x41090000#32, 0x0000001F#32] = .decoded (.createChar 9#8 []) [0x0000001F#32] := by decide

theorem witness_StepRunsTheDecodedOperation :
    (loaded [0x20000000#32] blank).halted = false ∧
    decode ((loaded [0x20000000#32] blank).prog.drop (loaded [0x20000000#32] blank).pc) = .decoded .begin [] := by decide

theorem witness_StepRunsTheEncodedOperation :
    (loaded [0x41090100#32, 0x0000001F#32] blank).halted = false ∧ (Instr.createChar 9#8 [0x1F#8]).WellFormed ∧
    (loaded [0x41090100#32, 0x0000001F#32] blank).prog.drop (loaded [0x41090100#32, 0x0000001F#32] blank).pc =
      encode (.createChar 9#8 [0x1F#8]) ++ [] := by decide

/-- An unassigned opcode, and a reserved bit set. -/
theorem witness_IllegalFirstWordFaultsAndChangesNothingElse :
    (loaded [0x02000000#32] blank).halted = false ∧ (loaded [0x02000000#32] blank).prog[0]? = some 0x02000000#32 ∧
    (∀ op, ¬ matchesRow 0x02000000#32 op) ∧ (∀ op, ¬ matchesRow 0x10000001#32 op) := by
  refine ⟨rfl, rfl, ?_, ?_⟩ <;> intro op <;> cases op <;> decide

/-- V-CC-7: the second extension word offends; and a one-word charmap whose first one does. -/
theorem witness_IllegalExtensionWordFaultsAndChangesNothingElse :
    (∃ s : State, s.halted = false ∧ s.prog[s.pc]? = some 0x41000200#32 ∧ matchesRow 0x41000200#32 .createChar ∧
      s.pc + (fieldB 0x41000200#32).toNat < s.prog.length ∧ 1 < (fieldB 0x41000200#32).toNat ∧
      s.prog[s.pc + 1 + 1]? = some 0x00000100#32 ∧ 0x00000100#32 >>> 8 ≠ 0 ∧
      (∀ j, j < 1 → ∀ e', s.prog[s.pc + 1 + j]? = some e' → e' >>> 8 = 0)) ∧
    (∃ s : State, s.halted = false ∧ s.prog[s.pc]? = some 0x41000100#32 ∧ matchesRow 0x41000100#32 .createChar ∧
      s.pc + (fieldB 0x41000100#32).toNat < s.prog.length ∧ 0 < (fieldB 0x41000100#32).toNat ∧
      s.prog[s.pc + 1 + 0]? = some 0x80000000#32 ∧ 0x80000000#32 >>> 8 ≠ 0 ∧
      (∀ j, j < 0 → ∀ e', s.prog[s.pc + 1 + j]? = some e' → e' >>> 8 = 0)) := by
  refine ⟨⟨loaded [0x41000200#32, 0x00000001#32, 0x00000100#32] blank, by decide, by decide, by decide, by decide,
    by decide, by decide, by decide, ?_⟩, ⟨loaded [0x41000100#32, 0x80000000#32] blank, by decide, by decide, by decide,
    by decide, by decide, by decide, by decide, ?_⟩⟩
  · intro j hj e' he
    obtain rfl : j = 0 := by omega
    cases he
    decide
  · intro j hj
    omega

/-- V-CC-6, and the least charmap with no word left. -/
theorem witness_ShortCreateCharIsStuck :
    (∃ s : State, s.halted = false ∧ s.faults = [] ∧ s.prog[s.pc]? = some 0x41000800#32 ∧
      matchesRow 0x41000800#32 .createChar ∧ s.pc + (fieldB 0x41000800#32).toNat ≥ s.prog.length) ∧
    (∃ s : State, s.halted = false ∧ s.faults = [] ∧ s.prog[s.pc]? = some 0x41000100#32 ∧
      matchesRow 0x41000100#32 .createChar ∧ s.pc + (fieldB 0x41000100#32).toNat ≥ s.prog.length) :=
  ⟨⟨loaded [0x41000800#32, 0#32, 0#32, 0#32] blank, by decide, by decide, by decide, by decide, by decide⟩,
   ⟨loaded [0x41000100#32] blank, by decide, by decide, by decide, by decide, by decide⟩⟩

theorem witness_EndOfStreamCompletesTheRun :
    (blank.halted = false ∧ blank.faults = [] ∧ blank.pc = blank.prog.length) ∧ (endRun blank).halted = true := by decide

/-- The default pin map, and one that reverses it. -/
theorem witness_ExpanderByteCarriesEachLine :
    defaultPins.wf ∧ ({ rs := 7, rw := 6, en := 5, bl := 4, d0 := 3, d1 := 2, d2 := 1, d3 := 0 } : PinMap).wf := by decide

/-- The premise of every fault-free statement, up to BEGIN's 36 writes. -/
theorem witness_AnswersOk : blank.AnswersOk 36 ∧ ready.AnswersOk 36 ∧ (restoring ready).AnswersOk 36 := by
  have h : ∀ s : State, s.answers = List.replicate 64 .ok → s.AnswersOk 36 := by
    intro s hs k hk
    rw [State.answerAt, hs, List.getElem?_replicate, if_pos (by omega)]
    rfl
  exact ⟨h _ rfl, h _ rfl, h _ rfl⟩

theorem witness_SendEmitsOneByteAndLeavesTheShadowState : blank.AnswersOk 6 := by decide

/-- Both members of the list, the fault-free premise, and a failure of the first and of the last write. -/
theorem witness_DisplayShiftsEmitOneCommand :
    (∀ x ∈ [(Instr.scrollDisplayLeft, 0x42000000#32, 0x18#8), (.scrollDisplayRight, 0x43000000#32, 0x1C#8)],
      x ∈ [(Instr.scrollDisplayLeft, 0x42000000#32, 0x18#8), (.scrollDisplayRight, 0x43000000#32, 0x1C#8)]) ∧
    blank.AnswersOk 6 ∧
    ((failing 0 blank).AnswersOk 0 ∧ (failing 0 blank).answerAt 0 = .fail ∧
      writeByte 0 (sendEvents (failing 0 blank) 0x18#8 .command) = some 0x18#8) ∧
    ((failing 5 blank).AnswersOk 5 ∧ (failing 5 blank).answerAt 5 = .fail ∧
      writeByte 5 (sendEvents (failing 5 blank) 0x1C#8 .command) = some 0xC8#8) :=
  ⟨fun _ h => h, by decide⟩

/-- A failure at the first and at the last of the six writes, for each operation of the statement. -/
theorem witness_FailedSendLeavesTheShadowState :
    ((failing 0 ready).AnswersOk 0 ∧ (failing 0 ready).answerAt 0 = .fail ∧ (failing 0 ready).cursorCol ≠ none ∧
      writeByte 0 (sendEvents (failing 0 ready) 0x41#8 .data) = some 0x49#8) ∧
    ((failing 5 ready).AnswersOk 5 ∧ (failing 5 ready).answerAt 5 = .fail ∧
      (failing 5 ready).rowOffset = rowOffsetTable (failing 5 ready).cfg.rows (failing 5 ready).cfg.cols ∧
      writeByte 5 (sendEvents (failing 5 ready)
        (ddramByte (failing 5 ready).cfg (min (2#8).toNat 1) (min (10#8).toNat 15)) .command) = some 0xA8#8) := by decide

/-- An `UNSPEC` register; a readable one with every write answered; and V-TG-15, where the second write of CURSOR
fails. Each row of the list is met by itself. -/
theorem witness_ControlTogglesWriteOneBitAndEmitTheRegister :
    blank.controlReg = none ∧ (readControl ready = some 0x04#8 ∧ ready.AnswersOk 6) ∧
    (readControl (failing 1 ready) = some 0x04#8 ∧ (failing 1 ready).AnswersOk 1 ∧
      (failing 1 ready).answerAt 1 = .fail ∧
      writeByte 1 (sendEvents (failing 1 ready) ((failing 1 ready).params.codes.displayControl ||| 0x06#8) .command) =
        some 0x0C#8) := by decide

/-- An `UNSPEC` register; a readable one with every write answered; and a failure of the last write of RIGHT_TO_LEFT. -/
theorem witness_ModeTogglesWriteOneBitAndEmitTheRegister :
    blank.modeReg = none ∧ (readMode ready = some 0x02#8 ∧ ready.AnswersOk 6) ∧
    (readMode (failing 5 ready) = some 0x02#8 ∧ (failing 5 ready).AnswersOk 5 ∧ (failing 5 ready).answerAt 5 = .fail ∧
      writeByte 5 (sendEvents (failing 5 ready) ((failing 5 ready).params.codes.entryModeSet ||| 0x00#8) .command) =
        some 0x48#8) := by decide

/-- At reset every one of these reads faults; a row alone that is `UNSPEC` is met too. -/
theorem witness_UnspecifiedReadFaultsBeforeAnyEffect :
    blank.controlReg = none ∧ blank.modeReg = none ∧ blank.cursorCol = none ∧ blank.cursorRow = none ∧
    (restoring blank).params.createCharRestores = true ∧ (restoring blank).cursorCol = none ∧
    ({ ready with cursorRow := none } : State).cursorRow = none := by decide

theorem witness_TogglesAreIdempotent :
    ready.controlReg ≠ none ∧ ready.modeReg ≠ none ∧ ready.halted = false ∧ ready.AnswersOk 12 := by decide

/-- Both clamps at their bound and beyond it, on the largest display. -/
theorem witness_SetCursorClampsEmitsAndMoves :
    (sized .four 255#8 blank).rowOffset =
      rowOffsetTable (sized .four 255#8 blank).cfg.rows (sized .four 255#8 blank).cfg.cols ∧
    254 = min (255#8).toNat ((sized .four 255#8 blank).cfg.cols.toNat - 1) ∧
    3 = min (4#8).toNat ((sized .four 255#8 blank).cfg.rows.toNat - 1) ∧ (sized .four 255#8 blank).AnswersOk 6 := by
  decide

/-- Both members of the list, the fault-free premise, and V-HM-2's failure of the last write of HOME. -/
theorem witness_HomeAndClearEmitAndGoToTheOrigin :
    (∀ x ∈ [(Instr.home, 0x1B000000#32, 0x02#8), (.clear, 0x1C000000#32, 0x01#8)],
      x ∈ [(Instr.home, 0x1B000000#32, 0x02#8), (.clear, 0x1C000000#32, 0x01#8)]) ∧
    blank.AnswersOk 6 ∧
    ((failing 5 ready).AnswersOk 5 ∧ (failing 5 ready).answerAt 5 = .fail ∧
      writeByte 5 (sendEvents (failing 5 ready) 0x02#8 .command) = some 0x28#8) ∧
    ((failing 0 ready).AnswersOk 0 ∧ (failing 0 ready).answerAt 0 = .fail ∧
      writeByte 0 (sendEvents (failing 0 ready) 0x01#8 .command) = some 0x08#8) :=
  ⟨fun _ h => h, by decide⟩

theorem witness_BeginInitializesTheControllerAndTheShadow :
    blank.functionReg = functionInit blank.cfg.rows blank.cfg.charsize ∧ blank.AnswersOk 36 :=
  ⟨by decide, witness_AnswersOk.1⟩

/-- A BEGIN that ends without a fault, and the events it adds. -/
theorem witness_BeginEventCounts :
    ∃ t es, exec .begin blank = .next t ∧ t.faults = blank.faults ∧ t.trace = blank.trace ++ es :=
  ⟨_, _, rfl, by decide, (List.nil_append _).symm⟩

/-- The failing write before, between and after the two register writes. -/
theorem witness_FailedBeginKeepsWhatWasWritten :
    ((failing 17 blank).AnswersOk 17 ∧ (failing 17 blank).answerAt 17 = .fail ∧
      (writeByte 17 (beginEvents (failing 17 blank) 0x08#8)).isSome) ∧
    ((failing 18 blank).AnswersOk 18 ∧ (failing 18 blank).answerAt 18 = .fail ∧
      (writeByte 18 (beginEvents (failing 18 blank) 0x08#8)).isSome) ∧
    ((failing 24 blank).AnswersOk 24 ∧ (failing 24 blank).answerAt 24 = .fail ∧
      (writeByte 24 (beginEvents (failing 24 blank) 0x08#8)).isSome) ∧
    (failing 24 blank).functionReg = functionInit (failing 24 blank).cfg.rows (failing 24 blank).cfg.charsize := by decide

/-- Two blocks that differ in every field BEGIN writes. -/
theorem witness_BeginForgetsTheStateBeforeIt :
    ∃ t t', blank.cfg = ready.cfg ∧ blank.params = ready.params ∧ blank.backlight = ready.backlight ∧
      blank.functionReg = functionInit blank.cfg.rows blank.cfg.charsize ∧
      ready.functionReg = functionInit ready.cfg.rows ready.cfg.charsize ∧
      exec .begin blank = .next t ∧ exec .begin ready = .next t' ∧ t.faults = blank.faults ∧ t'.faults = ready.faults :=
  ⟨_, _, rfl, rfl, rfl, by decide, by decide, rfl, rfl, by decide, by decide⟩

theorem witness_SetBacklightWritesOneByte : blank.AnswersOk 1 := by decide

theorem witness_FailedSetBacklightKeepsTheNewState :
    0x00#8 = compose (failing 0 blank).params.pins 0x0#4 false false false ∧ (failing 0 blank).answerAt 0 = .fail := by
  decide

theorem witness_BacklightLaw : blank.halted = false ∧ blank.AnswersOk 2 := by decide

/-- The last column, where the clamp holds it. -/
theorem witness_PrintCharSendsAndAdvances :
    ({ ready with cursorCol := some 15#8 } : State).cursorCol = some 15#8 ∧
    ({ ready with cursorCol := some 15#8 } : State).AnswersOk 6 := by decide

theorem witness_PrintSendsEachCharacterAndAdvances :
    printExpansion ['H', 'i'] = some [.printChar 0x48#8, .printChar 0x69#8] ∧
    (loaded [0x40480000#32, 0x40690000#32] ready).halted = false ∧
    (loaded [0x40480000#32, 0x40690000#32] ready).prog.drop 0 =
      [Instr.printChar 0x48#8, .printChar 0x69#8].flatMap encode ++ [] ∧
    ready.cursorCol = some 0#8 ∧ ready.cursorRow = some 0#8 ∧ (0#8).toNat ≤ ready.cfg.cols.toNat - 1 ∧
    ready.AnswersOk 12 := by decide

theorem witness_CreateCharSendsTheGlyph :
    blank.params.createCharRestores = false ∧ blank.AnswersOk (6 * (1 + [0x1F#8, 0x0A#8].length)) := by decide

theorem witness_CreateCharWithRestoreEndsWithTheCursorAddress :
    (restoring ready).params.createCharRestores = true ∧
    (restoring ready).rowOffset = rowOffsetTable (restoring ready).cfg.rows (restoring ready).cfg.cols ∧
    (restoring ready).cursorCol = some 0#8 ∧ (restoring ready).cursorRow = some 0#8 ∧
    (0#8).toNat ≤ (restoring ready).cfg.rows.toNat - 1 ∧ (restoring ready).AnswersOk (6 * (2 + [0x1F#8].length)) := by
  decide

/-- The last write of the address command, and of the restore after a one-byte glyph. -/
theorem witness_FailedCreateCharStopsAtThatWrite :
    ((failing 5 blank).params.createCharRestores = false ∧
      5 < writeCount (glyphEvents (failing 5 blank) 9#8 [0x1F#8]) ∧
      (failing 5 blank).AnswersOk 5 ∧ (failing 5 blank).answerAt 5 = .fail ∧
      writeByte 5 (glyphEvents (failing 5 blank) 9#8 [0x1F#8]) = some 0x88#8) ∧
    (∃ s : State, s.params.createCharRestores = true ∧ s.rowOffset = rowOffsetTable s.cfg.rows s.cfg.cols ∧
      s.cursorCol = some 0#8 ∧ s.cursorRow = some 0#8 ∧ (0#8).toNat ≤ s.cfg.rows.toNat - 1 ∧
      17 < writeCount (glyphEvents s 9#8 [0x1F#8] ++ sendEvents s (ddramByte s.cfg 0 0) .command) ∧
      s.AnswersOk 17 ∧ s.answerAt 17 = .fail ∧
      writeByte 17 (glyphEvents s 9#8 [0x1F#8] ++ sendEvents s (ddramByte s.cfg 0 0) .command) = some 0x08#8) :=
  ⟨by decide, failing 17 (restoring ready), by decide⟩

theorem witness_QueriesRespondAndChangeNothingElse :
    ready.cursorCol = some 0#8 ∧ ready.cursorRow = some 0#8 ∧ readControl ready = some 0x04#8 ∧
    readMode ready = some 0x02#8 := by decide

theorem witness_RegisterQueriesAnswerOrFault :
    blank.controlReg = none ∧ blank.modeReg = none ∧ readControl ready = some 0x04#8 ∧ readMode ready = some 0x02#8 ∧
    ready.controlReg = some 0x04#8 ∧ 0x04#8 &&& 0xF8#8 = 0 ∧ ready.modeReg = some 0x02#8 ∧ 0x02#8 &&& 0xFC#8 = 0 := by
  decide

theorem witness_GetFunctionAnswersTheConstructionValue :
    (sized .one 16#8 blank).functionReg = functionInit (sized .one 16#8 blank).cfg.rows .dots5x8 ∧
    blank.functionReg = functionInit blank.cfg.rows blank.cfg.charsize := by decide

/-- A value with every bit set, the hard-wired ones too, and `UNSPEC`. -/
theorem witness_HardwiredBitsReadZero :
    ({ blank with controlReg := some 0xFF#8, modeReg := some 0xFF#8 } : State).controlReg = some 0xFF#8 ∧
    readControl { blank with controlReg := some 0xFF#8 } = some 0x07#8 ∧
    readMode { blank with modeReg := some 0xFF#8 } = some 0x03#8 ∧
    readFunction { blank with functionReg := 0xFF#8 } = 0x0C#8 ∧
    blank.controlReg = none ∧ blank.modeReg = none := by decide

/-- The source's own text of section 8, and the codes at the bound and beyond it. -/
theorem witness_PseudoInstructionsExpand :
    '"' ∉ "Hello".toList ∧ (∀ ch ∈ ['\xff'], ch.toNat ≤ 0xFF) ∧ ∃ ch ∈ ['\u0100'], ch.toNat > 0xFF := by
  simp

/-- Each clause at its bound: 255 and 256, 0, 1 and 2, entries in both bases, 256 entries, and the text outside which a
minus sign or a comment stands. -/
theorem witness_AssembledLinesAreWellFormed :
    parseLine [.word "CLEAR".toList] = some [.clear] ∧
    numberValue "255".toList = some 255 ∧ numberValue "0x100".toList = some 256 ∧
    parseLine [.word "PRINT_CHAR".toList, .word "255".toList] = some [.printChar 255#8] ∧
    numberValue "0".toList = some 0 ∧ numberValue "1".toList = some 1 ∧ numberValue "2".toList = some 2 ∧
    ["0", "0xFF"].map (fun w => numberValue w.toList) = [0x00#8, 0xFF#8].map (fun b => some b.toNat) ∧
    '"' ∉ "PRINT ".toList ∧ ';' ∉ "PRINT ".toList ∧ '"' ∉ "a;b".toList ∧
    '"' ∉ "SET_CURSOR ".toList ∧ ';' ∉ "SET_CURSOR ".toList ∧
    ∃ ws : List (List Char), ws = List.replicate 256 "0".toList ∧ ws.length > 255 :=
  ⟨by decide, by decide, by decide, by decide, by decide, by decide, by decide, by decide, by decide, by decide,
    by decide, by decide, by decide, _, rfl, by rw [List.length_replicate]; decide⟩

/-- A number in hexadecimal whose letters stand in both cases. -/
theorem witness_NumbersAreReadInBothBases :
    ['a', 'B'].map Char.toUpper = (Nat.toDigits 16 0xAB).map Char.toUpper ∧
    numberValue ['0', 'x', 'a', 'B'] = some 0xAB := by decide

/-- One step for each of the four cases, and the two forms of an operation's progress. -/
theorem witness_StatusCodeTellsTheFaultTaken :
    (∃ t, step (loaded [0x50000000#32] ready) = .next t ∧ t.faults = [] ∧ statusCode t = 0) ∧
    (∃ t, step (loaded [0x30000000#32] (failing 0 blank)) = .next t ∧ statusCode t = 1) ∧
    (∃ t, step (loaded [0x00000000#32] blank) = .next t ∧ statusCode t = 2) ∧
    (∃ t, step (loaded [0x50000000#32] blank) = .next t ∧ statusCode t = 3) ∧
    Progress.status (.ok blank) = 0 ∧ blank.faults = [] :=
  ⟨⟨_, rfl, by decide⟩, ⟨_, rfl, by decide⟩, ⟨_, rfl, by decide⟩, ⟨_, rfl, by decide⟩, by decide⟩

theorem witness_EachFieldIsWrittenOnlyByItsOperations : ∃ t, exec .getCursor ready = .next t := ⟨_, rfl⟩

theorem witness_StepOnlyExtendsTheObservation : ∃ t, step (loaded [0x1C000000#32] blank) = .next t := ⟨_, rfl⟩

theorem witness_EveryWriteGoesToTheDeviceAddress :
    ∃ t, step (loaded [0x30000000#32] blank) = .next t ∧ Event.write 0x27#7 0x00#8 ∈ t.trace := ⟨_, rfl, by decide⟩

theorem witness_EveryWriteCarriesTheBacklightBit :
    blank.params.pins.wf ∧ ∃ t, step (loaded [0x30000000#32] blank) = .next t := ⟨by decide, _, rfl⟩

theorem witness_FirstWriteOfAnOperationLowersEnable :
    blank.params.pins.wf ∧ ∃ t es b, exec (.setBacklight true) blank = .next t ∧ t.trace = blank.trace ++ es ∧
      firstWrite es = some b := ⟨by decide, _, [.write 0x27#7 0x08#8], 0x08#8, rfl, by decide, rfl⟩

theorem witness_OperationCosts :
    blank.params.timing = defaultTiming ∧ blank.params.codes = defaultCodes ∧
    ∃ t es, exec .home blank = .next t ∧ t.faults = blank.faults ∧ t.trace = blank.trace ++ es :=
  ⟨rfl, rfl, _, _, rfl, by decide, (List.nil_append _).symm⟩

/-- A state of the invariant other than reset: after BEGIN, with a stream to run. -/
theorem witness_Inv : (loaded [0x1C000000#32] ready).Inv := by
  constructor <;> first | decide | simp [loaded, ready, blank, State.reset, State.construct]

theorem witness_EveryRunEndsInOneOfThreeWays :
    (loaded [0x1C000000#32] ready).Inv ∧ (loaded [0x1C000000#32] ready).halted = false := ⟨witness_Inv, rfl⟩

theorem witness_ConstructedBlocksMeetTheInvariant :
    defaultParams.pins.wf ∧ ∃ s, constructBlock
      { addr := 0x7F, cols := 255, rows := 4, charsize := 1, bus := none, i2cFreqMax := none } defaultParams = .ok s :=
  ⟨by decide, _, rfl⟩

theorem witness_StepKeepsTheInvariant :
    (loaded [0x1C000000#32] ready).Inv ∧ ∃ t, step (loaded [0x1C000000#32] ready) = .next t := ⟨witness_Inv, _, rfl⟩

end Sys2Proof.Tests
end

section
/-! SUPPORT. What each operation and each step leaves unchanged and what it can write, field by field, read off
`exec_settles` and `step_cases` once. Whole-machine proofs cite these and take no meaning apart. -/

namespace Sys2Proof.Laws

open Sys2Proof.Machine

/-! ## What construction and launch fix -/

/-- `t` holds what construction and launch fix as `s` holds it (R30, R31, R34, R78). -/
structure KeepsFixed (s t : State) : Prop where
  cfg : t.cfg = s.cfg
  params : t.params = s.params
  rowOffset : t.rowOffset = s.rowOffset
  functionReg : t.functionReg = s.functionReg
  prog : t.prog = s.prog

/-- Of what an operation writes before its events, it writes the two registers and the backlight alone. -/
theorem Before.eq_registers_backlight {s u : State} {i : Instr} (h : Before s i u) :
    u = { s with controlReg := u.controlReg, modeReg := u.modeReg, backlight := u.backlight } := by
  cases h <;> rfl

/-- After its events an operation writes the cursor alone. -/
theorem After.eq_cursor {s : State} {i : Instr} {k : State → State} (h : After s i k) (u : State) :
    k u = { u with cursorCol := (k u).cursorCol, cursorRow := (k u).cursorRow } := by
  cases h <;> rfl

theorem Settles.keepsFixed {s t : State} {i : Instr} (h : Settles s i t) : KeepsFixed s t := by
  cases h with
  | uninit name hi => exact ⟨rfl, rfl, rfl, rfl, rfl⟩
  | query v hi => exact ⟨rfl, rfl, rfl, rfl, rfl⟩
  | ended u k hu hk hi => rw [hk.eq_cursor, hu.eq_registers_backlight]; exact ⟨rfl, rfl, rfl, rfl, rfl⟩
  | failed u j b hu hj hl hi => rw [hu.eq_registers_backlight]; exact ⟨rfl, rfl, rfl, rfl, rfl⟩
  | began hi => constructor <;> simp
  | beginFailed j b hi hj hl => exact ⟨rfl, rfl, rfl, rfl, rfl⟩

/-! ## The registers -/

theorem Before.controlReg {s u : State} {i : Instr} (h : Before s i u) :
    u.controlReg = s.controlReg ∨
    i.opcode ∈ controlOpcodes ∧ ∃ v, u.controlReg = some v ∧ v &&& controlBits = v := by
  cases h with
  | control v hv hi hs => exact .inr ⟨hi, v, rfl, hv⟩
  | nothing h | mode v hv hi hs | light v hi => exact .inl rfl

theorem Before.modeReg {s u : State} {i : Instr} (h : Before s i u) :
    u.modeReg = s.modeReg ∨
    i.opcode ∈ modeOpcodes ∧ s.modeReg ≠ none ∧ ∃ v, u.modeReg = some v ∧ v &&& modeBits = v := by
  cases h with
  | mode v hv hi hs => exact .inr ⟨hi, hs, v, rfl, hv⟩
  | nothing h | control v hv hi hs | light v hi => exact .inl rfl

/-- The registers an operation leaves: those it wrote before its events, or those of BEGIN, `x[CONTROL]` first. -/
theorem Settles.registers {s t : State} {i : Instr} (h : Settles s i t) :
    (∃ u, (Before s i u ∨ u = s) ∧ t.controlReg = u.controlReg ∧ t.modeReg = u.modeReg) ∨
    i = .begin ∧ t.controlReg = some 0x04#8 ∧ (t.modeReg = s.modeReg ∨ t.modeReg = some 0x02#8) := by
  cases h with
  | uninit name hi => exact .inl ⟨s, .inr rfl, rfl, rfl⟩
  | query v hi => exact .inl ⟨s, .inr rfl, rfl, rfl⟩
  | ended u k hu hk hi => rw [hk.eq_cursor]; exact .inl ⟨u, .inl hu, rfl, rfl⟩
  | failed u j b hu hj hl hi => exact .inl ⟨u, .inl hu, rfl, rfl⟩
  | began hi => exact .inr ⟨hi, rfl, .inr rfl⟩
  | beginFailed j b hi hj hl =>
    by_cases hc : j < 18
    · exact .inl ⟨s, .inr rfl, if_pos hc, if_pos (by omega)⟩
    · exact .inr ⟨hi, if_neg hc, ite_eq_or_eq ..⟩

/-- The writers of `x[CONTROL]`, and the hard-wired bits of what they write (R35). -/
theorem Settles.controlReg {s t : State} {i : Instr} (h : Settles s i t) :
    t.controlReg = s.controlReg ∨
    i.opcode ∈ .begin :: controlOpcodes ∧ ∃ v, t.controlReg = some v ∧ v &&& controlBits = v := by
  obtain ⟨u, hu | rfl, hc, -⟩ | ⟨rfl, hc, -⟩ := h.registers
  · rw [hc]
    exact hu.controlReg.imp_right fun ⟨hi, hv⟩ => ⟨List.mem_cons_of_mem _ hi, hv⟩
  · exact .inl hc
  · exact .inr ⟨by decide, _, hc, rfl⟩

/-- The writers of `x[MODE]`, and the hard-wired bits of what they write (R36). -/
theorem Settles.modeReg {s t : State} {i : Instr} (h : Settles s i t) :
    t.modeReg = s.modeReg ∨
    i.opcode ∈ .begin :: modeOpcodes ∧ ∃ v, t.modeReg = some v ∧ v &&& modeBits = v := by
  obtain ⟨u, hu | rfl, -, hm⟩ | ⟨rfl, -, hm | hm⟩ := h.registers
  · rw [hm]
    exact hu.modeReg.imp_right fun ⟨hi, _, hv⟩ => ⟨List.mem_cons_of_mem _ hi, hv⟩
  · exact .inl hm
  · exact .inl hm
  · exact .inr ⟨by decide, _, hm, rfl⟩

/-- No operation makes `x[CONTROL]` `UNSPEC`, and one that writes `x[MODE]` found a value in it or left one in
`x[CONTROL]` (R140, R170). -/
theorem Settles.control_first {s t : State} {i : Instr} (h : Settles s i t)
    (hs : s.modeReg ≠ none → s.controlReg ≠ none) (ht : t.modeReg ≠ none) : t.controlReg ≠ none := by
  obtain ⟨u, hu | rfl, hc, hm⟩ | ⟨-, hc, -⟩ := h.registers
  · rw [hm] at ht
    have hsm : s.modeReg ≠ none := by
      obtain he | ⟨-, hne, -⟩ := hu.modeReg
      · rwa [he] at ht
      · exact hne
    rw [hc]
    obtain he | ⟨-, v, hv, -⟩ := hu.controlReg
    · rw [he]; exact hs hsm
    · simp [hv]
  · rw [hc]; exact hs (hm ▸ ht)
  · simp [hc]

/-! ## The cursor and the backlight -/

/-- The writers of the cursor fields and what they write: both fields clamped (R151, R153, R155), or the column
advanced where it had a value (R191). -/
theorem Settles.cursor {s t : State} {i : Instr} (h : Settles s i t) :
    (t.cursorCol = s.cursorCol ∧ t.cursorRow = s.cursorRow) ∨
    (i.opcode ∈ [.setCursor, .home, .clear, .begin] ∧
      ∃ c r, t.cursorCol = some (clampCol s.cfg c) ∧ t.cursorRow = some (clampRow s.cfg r)) ∨
    (i.opcode = .printChar ∧ s.cursorCol ≠ none ∧ t.cursorRow = s.cursorRow ∧
      ∃ c, t.cursorCol = some (advanceCol s.cfg c)) := by
  cases h with
  | uninit name hi => exact .inl ⟨rfl, rfl⟩
  | query v hi => exact .inl ⟨rfl, rfl⟩
  | ended u k hu hk hi =>
    rw [hu.eq_registers_backlight]
    cases hk with
    | nothing => exact .inl ⟨rfl, rfl⟩
    | cursor c r hi => exact .inr (.inl ⟨List.mem_append_left [Opcode.begin] hi, c, r, rfl, rfl⟩)
    | column c hi hs => exact .inr (.inr ⟨hi, hs, rfl, c, rfl⟩)
  | failed u j b hu hj hl hi => rw [hu.eq_registers_backlight]; exact .inl ⟨rfl, rfl⟩
  | began hi => subst hi; exact .inr (.inl ⟨by decide, 0#8, 0#8, by simp, by simp⟩)
  | beginFailed j b hi hj hl => exact .inl ⟨rfl, rfl⟩

theorem Before.backlight {s u : State} {i : Instr} (h : Before s i u) :
    u.backlight = s.backlight ∨ i.opcode = .setBacklight := by
  cases h with
  | light v hi => exact .inr (hi ▸ rfl)
  | nothing h | control v hv hi hs | mode v hv hi hs => exact .inl rfl

/-- SET_BACKLIGHT alone writes the backlight (R180). -/
theorem Settles.backlight {s t : State} {i : Instr} (h : Settles s i t) :
    t.backlight = s.backlight ∨ i.opcode = .setBacklight := by
  cases h with
  | uninit name hi => exact .inl rfl
  | query v hi => exact .inl rfl
  | ended u k hu hk hi => rw [hk.eq_cursor]; exact hu.backlight
  | failed u j b hu hj hl hi => exact hu.backlight
  | began hi => exact .inl rfl
  | beginFailed j b hi hj hl => exact .inl rfl

/-! ## The observation -/

/-- The queries alone respond, once each (R182, R200 to R203). -/
theorem Settles.resp {s t : State} {i : Instr} (h : Settles s i t) :
    t.resp = s.resp ∨ i.opcode ∈ queryOpcodes ∧ ∃ v, t.resp = s.resp ++ [v] := by
  cases h with
  | uninit name hi => exact .inl rfl
  | query v hi => exact .inr ⟨hi, v, rfl⟩
  | ended u k hu hk hi => rw [hk.eq_cursor, hu.eq_registers_backlight]; exact .inl rfl
  | failed u j b hu hj hl hi => rw [hu.eq_registers_backlight]; exact .inl rfl
  | began hi => exact .inl rfl
  | beginFailed j b hi hj hl => exact .inl rfl

/-- A query makes no bus event (R204). -/
theorem Settles.query_no_event {s t : State} {i : Instr} (h : Settles s i t) (hq : i.opcode ∈ queryOpcodes) :
    t.trace = s.trace ∧ t.latch = s.latch := by
  cases h with
  | uninit name hi => exact ⟨rfl, rfl⟩
  | query v hi => exact ⟨rfl, rfl⟩
  | ended u k hu hk hi => exact absurd (List.mem_cons_of_mem _ hq) hi
  | failed u j b hu hj hl hi => exact absurd (List.mem_cons_of_mem _ hq) hi
  | began hi => exact absurd (hi ▸ hq) (by decide)
  | beginFailed j b hi hj hl => exact absurd (hi ▸ hq) (by decide)

theorem uptoWrite_prefix (j : Nat) (es : List Event) : uptoWrite j es <+: es := by
  induction es generalizing j with
  | nil => exact List.prefix_rfl
  | cons e es ih =>
    cases e with
    | wait t => exact (List.prefix_cons_inj _).mpr (ih j)
    | write a b =>
      cases j with
      | zero => exact (List.prefix_cons_inj _).mpr List.nil_prefix
      | succ j => exact (List.prefix_cons_inj _).mpr (ih j)

/-- An operation appends its own events to the trace, all of them or a first part (R41, R128). -/
theorem Settles.trace {s t : State} {i : Instr} (h : Settles s i t) :
    ∃ es, t.trace = s.trace ++ es ∧ es <+: operationEvents s i := by
  cases h with
  | uninit name hi => exact ⟨[], (List.append_nil _).symm, List.nil_prefix⟩
  | query v hi => exact ⟨[], (List.append_nil _).symm, List.nil_prefix⟩
  | ended u k hu hk hi =>
    rw [hk.eq_cursor, hu.eq_registers_backlight]
    exact ⟨_, rfl, List.prefix_rfl⟩
  | failed u j b hu hj hl hi =>
    rw [hu.eq_registers_backlight]
    exact ⟨_, rfl, uptoWrite_prefix j _⟩
  | began hi => subst hi; exact ⟨_, rfl, List.prefix_rfl⟩
  | beginFailed j b hi hj hl => subst hi; exact ⟨_, rfl, uptoWrite_prefix j _⟩

/-! ## The end of an operation and of a step -/

/-- `t` has taken one fault in `s`, at the pc, which stays (R214). -/
def TookFault (s t : State) : Prop := ∃ f, t.faults = s.faults ++ [(s.pc, f)] ∧ t.halted = true ∧ t.pc = s.pc

/-- An operation ends past its words without a fault, or takes one. -/
theorem Settles.ends_or_tookFault {s t : State} {i : Instr} (h : Settles s i t) :
    (t.faults = s.faults ∧ t.halted = s.halted ∧ t.pc = s.pc + i.length) ∨ TookFault s t := by
  cases h with
  | uninit name hi => exact .inr ⟨_, rfl, rfl, rfl⟩
  | query v hi => exact .inl ⟨rfl, rfl, rfl⟩
  | ended u k hu hk hi => rw [hk.eq_cursor, hu.eq_registers_backlight]; exact .inl ⟨rfl, rfl, rfl⟩
  | failed u j b hu hj hl hi => rw [hu.eq_registers_backlight]; exact .inr ⟨_, rfl, rfl, rfl⟩
  | began hi => subst hi; exact .inl ⟨rfl, rfl, rfl⟩
  | beginFailed j b hi hj hl => exact .inr ⟨_, rfl, rfl, rfl⟩

theorem settles_of_exec {i : Instr} {s t : State} (h : exec i s = .next t) : Settles s i t := by
  obtain ⟨t', ht', hset⟩ := exec_settles i s
  cases h.symm.trans ht'
  exact hset

/-- `step_cases` with the decoded operation's next state as `Settles` describes it. -/
theorem step_settles {s t : State} (h : step s = .next t) :
    s.halted = false ∧
    ((s.pc = s.prog.length ∧ t = endRun s) ∨ (∃ w, t = takeFault (.illegalOp w) s) ∨
     ∃ i rest, decode (s.prog.drop s.pc) = .decoded i rest ∧ Settles s i t) := by
  obtain ⟨hrun, hpc, ht⟩ | ⟨hrun, -, w, -, ht⟩ | ⟨hrun, -, i, rest, hd, hx⟩ := step_cases h
  · exact ⟨hrun, .inl ⟨hpc, ht⟩⟩
  · exact ⟨hrun, .inr (.inl ⟨w, ht⟩)⟩
  · exact ⟨hrun, .inr (.inr ⟨i, rest, hd, settles_of_exec hx⟩)⟩

theorem step_keepsFixed {s t : State} (h : step s = .next t) : KeepsFixed s t := by
  obtain ⟨-, ⟨-, rfl⟩ | ⟨w, rfl⟩ | ⟨i, rest, -, hset⟩⟩ := step_settles h
  · exact ⟨rfl, rfl, rfl, rfl, rfl⟩
  · exact ⟨rfl, rfl, rfl, rfl, rfl⟩
  · exact hset.keepsFixed

/-- From `s` to `t` the observation lists only grow at their end (R41, R42). -/
structure ExtendsObservation (s t : State) : Prop where
  trace : s.trace <+: t.trace
  resp : s.resp <+: t.resp
  faults : s.faults <+: t.faults

theorem Settles.extendsObservation {s t : State} {i : Instr} (h : Settles s i t) : ExtendsObservation s t where
  trace := by
    obtain ⟨es, he, -⟩ := h.trace
    exact ⟨es, he.symm⟩
  resp := by
    obtain he | ⟨-, v, he⟩ := h.resp
    · rw [he]
    · exact ⟨[v], he.symm⟩
  faults := by
    obtain ⟨he, -⟩ | ⟨f, he, -⟩ := h.ends_or_tookFault
    · rw [he]
    · exact ⟨[(s.pc, f)], he.symm⟩

theorem step_extendsObservation {s t : State} (h : step s = .next t) : ExtendsObservation s t := by
  obtain ⟨-, ⟨-, rfl⟩ | ⟨w, rfl⟩ | ⟨i, rest, -, hset⟩⟩ := step_settles h
  · exact ⟨List.prefix_rfl, List.prefix_rfl, List.prefix_rfl⟩
  · exact ⟨List.prefix_rfl, List.prefix_rfl, List.prefix_append _ _⟩
  · exact hset.extendsObservation

/-- The decoder takes exactly the words of the operation it answers (R92, R97). -/
theorem length_of_decoded {ws rest : List Word} {i : Instr} (h : decode ws = .decoded i rest) :
    i.length + rest.length = ws.length := by
  cases ws with
  | nil => cases h
  | cons w ws =>
    cases hop : decodeOpcode w with
    | none => simp [decode, hop] at h
    | some op =>
      cases op with
      | createChar =>
        simp only [decode, hop] at h
        split at h
        · cases h
        · rename_i hn
          split at h
          · cases h
          · rename_i bytes hb
            cases h
            have hlen := congrArg List.length (eq_map_of_decodeExtension hb)
            simp at hlen
            simp [Instr.length]
            omega
      | _ =>
        simp only [decode, hop] at h
        cases h
        simp [Instr.length]
        omega

/-! ## The lines of every write -/

/-- The bit of an expander byte at a position: whatever the lines at that position carry (R120). -/
theorem getLsbD_compose (pins : PinMap) (nib : Nibble) (rs en bl : Bool) (q : Fin 8) :
    (compose pins nib rs en bl).getLsbD q.val =
      ((nib.getLsbD 0 && decide (pins.d0 = q)) || (nib.getLsbD 1 && decide (pins.d1 = q)) ||
        (nib.getLsbD 2 && decide (pins.d2 = q)) || (nib.getLsbD 3 && decide (pins.d3 = q)) ||
        (bl && decide (pins.bl = q)) || (en && decide (pins.en = q)) || (rs && decide (pins.rs = q))) := by
  simp only [compose, BitVec.getLsbD_or, getLsbD_line]
  simp only [Bool.false_and, Bool.or_false]

/-- On a legal pin map no other line shares the read/write line's position (R9). -/
theorem ne_rw_of_wf {pins : PinMap} (h : pins.wf) :
    pins.d0 ≠ pins.rw ∧ pins.d1 ≠ pins.rw ∧ pins.d2 ≠ pins.rw ∧ pins.d3 ≠ pins.rw ∧
    pins.bl ≠ pins.rw ∧ pins.en ≠ pins.rw ∧ pins.rs ≠ pins.rw := by
  simp only [PinMap.wf, PinMap.toList, List.nodup_cons, List.mem_cons, not_or] at h
  grind

/-- Every write of `es` goes to `ADDR` with the read/write line low (R61, R120). -/
def WritesLow (s : State) (es : List Event) : Prop :=
  ∀ a b, Event.write a b ∈ es → a = s.cfg.addr ∧ b.getLsbD s.params.pins.rw.val = false

theorem writesLow_nil (s : State) : WritesLow s [] := fun _ _ h => nomatch h

theorem writesLow_append {s : State} {es fs : List Event} (he : WritesLow s es) (hf : WritesLow s fs) :
    WritesLow s (es ++ fs) :=
  fun a b h => (List.mem_append.mp h).elim (he a b) (hf a b)

theorem getLsbD_compose_rw {pins : PinMap} (h : pins.wf) (nib : Nibble) (rs en bl : Bool) :
    (compose pins nib rs en bl).getLsbD pins.rw.val = false := by
  obtain ⟨h0, h1, h2, h3, hbl, hen, hrs⟩ := ne_rw_of_wf h
  simp [getLsbD_compose, h0, h1, h2, h3, hbl, hen, hrs, -BitVec.getLsbD_eq_getElem]

section
variable {s : State} (hp : s.params.pins.wf)
include hp

theorem writesLow_nibbleEvents (nib : Nibble) (mode : SendMode) (t : Nat) :
    WritesLow s (nibbleEvents s nib mode t) := by
  have hlow := getLsbD_compose_rw hp nib mode.bit false s.backlight
  have hen : (1#8 <<< s.params.pins.en.val).getLsbD s.params.pins.rw.val = false := by
    obtain ⟨-, -, -, -, -, hne, -⟩ := ne_rw_of_wf hp
    exact (getLsbD_line true _ _).trans (by simp [hne])
  intro a b h
  simp only [nibbleEvents, List.mem_cons, List.not_mem_nil, Event.write.injEq, reduceCtorEq, false_or, or_false] at h
  obtain ⟨ha, rfl⟩ | ⟨ha, rfl⟩ | ⟨ha, rfl⟩ := h
  · exact ⟨ha, hlow⟩
  · exact ⟨ha, by rw [BitVec.getLsbD_or, hlow, hen]; rfl⟩
  · exact ⟨ha, hlow⟩

theorem writesLow_sendEvents (v : Byte) (mode : SendMode) : WritesLow s (sendEvents s v mode) :=
  writesLow_append (writesLow_nibbleEvents hp _ _ _) (writesLow_nibbleEvents hp _ _ _)

theorem writesLow_glyphEvents (location : Byte) (charmap : List Byte) :
    WritesLow s (glyphEvents s location charmap) := by
  refine writesLow_append (writesLow_sendEvents hp _ _) fun a b h => ?_
  obtain ⟨v, -, hv⟩ := List.mem_flatMap.mp h
  exact writesLow_sendEvents hp v .data a b hv

theorem writesLow_beginEvents (fn : Byte) : WritesLow s (beginEvents s fn) := by
  have hn := fun nib t => writesLow_nibbleEvents hp nib .command t
  have hs := fun v => writesLow_sendEvents hp v .command
  have hw : WritesLow s [.wait s.params.timing.tPowerOn] := fun a b h => by simp at h
  have hforce := writesLow_append (writesLow_append (writesLow_append
    (hn 0x3#4 s.params.timing.tInit1) (hn 0x3#4 s.params.timing.tInit2)) (hn 0x3#4 s.params.timing.tExec))
    (hn 0x2#4 s.params.timing.tExec)
  exact writesLow_append (writesLow_append (writesLow_append (writesLow_append
    (writesLow_append hw hforce) (hs _)) (hs _)) (hs _)) (hs _)

theorem writesLow_controlEvents (bit : Byte) (set : Bool) : WritesLow s (controlEvents s bit set) := by
  unfold controlEvents
  cases readControl s with
  | none => exact writesLow_nil s
  | some old => exact writesLow_sendEvents hp _ _

theorem writesLow_modeEvents (bit : Byte) (set : Bool) : WritesLow s (modeEvents s bit set) := by
  unfold modeEvents
  cases readMode s with
  | none => exact writesLow_nil s
  | some old => exact writesLow_sendEvents hp _ _

/-- Every write of every operation goes to `ADDR` with the read/write line low. -/
theorem writesLow_operationEvents (i : Instr) : WritesLow s (operationEvents s i) := by
  cases i with
  | display | noDisplay | cursor | noCursor | blink | noBlink => exact writesLow_controlEvents hp _ _
  | leftToRight | rightToLeft | autoscroll | noAutoscroll => exact writesLow_modeEvents hp _ _
  | send _ _ | setCursor _ _ | home | clear | printChar _ | scrollDisplayLeft | scrollDisplayRight =>
    exact writesLow_sendEvents hp _ _
  | begin => exact writesLow_beginEvents hp _
  | setBacklight v =>
    intro a b h
    obtain ⟨rfl, rfl⟩ := Event.write.inj (List.mem_singleton.mp h)
    exact ⟨rfl, getLsbD_compose_rw hp _ _ _ _⟩
  | createChar location charmap =>
    refine writesLow_append (writesLow_glyphEvents hp location charmap) ?_
    split
    · exact writesLow_sendEvents hp _ _
    · exact writesLow_nil s
  | getBacklight | getCursor | getFunction | getControl | getMode => exact writesLow_nil s

end

end Sys2Proof.Laws
end

section
/-! SUPPORT. The parts of the invariant of reachable states, each kept by every operation and every step: what it says
of the run, of the registers, of the cursor and of the trace. -/

namespace Sys2Proof.Laws

open Sys2Proof.Machine

/-! ## The run -/

/-- What the invariant says of the run (R40, R42, R214, R215). -/
structure RunInv (s : State) : Prop where
  pc_in_stream : s.pc ≤ s.prog.length
  faulted_halts : s.faults ≠ [] → s.halted = true
  single_fault : s.faults.length ≤ 1
  fault_at_pc : ∀ p f, (p, f) ∈ s.faults → p = s.pc
  halted_done : s.halted = true → s.faults = [] → s.pc = s.prog.length

/-- A running block of the invariant has an empty fault log (R42). -/
theorem faults_eq_nil_of_running {s : State} (hs : s.Inv) (hrun : s.halted = false) : s.faults = [] := by
  by_contra hne
  exact absurd (hs.faulted_halts hne) (by simp [hrun])

theorem runInv_running {t : State} (hpc : t.pc ≤ t.prog.length) (hf : t.faults = []) (hr : t.halted = false) :
    RunInv t := by
  constructor <;> simp [hpc, hf, hr]

theorem runInv_completed {t : State} (hpc : t.pc = t.prog.length) (hf : t.faults = []) : RunInv t := by
  constructor <;> simp [hpc, hf]

theorem runInv_faulted {s t : State} (hs : s.faults = []) (hpc : s.pc ≤ s.prog.length) (hprog : t.prog = s.prog)
    (ht : TookFault s t) : RunInv t := by
  obtain ⟨f, hfaults, hhalted, hpc'⟩ := ht
  rw [hs, List.nil_append] at hfaults
  exact
    { pc_in_stream := by rw [hpc', hprog]; exact hpc
      faulted_halts := fun _ => hhalted
      single_fault := by simp [hfaults]
      fault_at_pc := by simp [hfaults, hpc']
      halted_done := by simp [hfaults] }

theorem Settles.runInv {s t : State} {i : Instr} (h : Settles s i t) (hs : s.faults = []) (hrun : s.halted = false)
    (hlen : s.pc + i.length ≤ s.prog.length) : RunInv t := by
  have hprog := h.keepsFixed.prog
  obtain ⟨hf, hh, hpc⟩ | ht := h.ends_or_tookFault
  · exact runInv_running (by rw [hpc, hprog]; exact hlen) (hf.trans hs) (hh.trans hrun)
  · exact runInv_faulted hs (by omega) hprog ht

/-- The words of a decoded operation lie inside the stream. -/
theorem length_le_of_decoded_at_pc {s : State} {i : Instr} {rest : List Word} (hpc : s.pc ≤ s.prog.length)
    (h : decode (s.prog.drop s.pc) = .decoded i rest) : s.pc + i.length ≤ s.prog.length := by
  have := length_of_decoded h
  rw [List.length_drop] at this
  omega

/-! ## The registers, the cursor and the trace -/

theorem and_not_eq_zero_of_and_eq {v m : Byte} (h : v &&& m = v) : v &&& ~~~m = 0 := by
  rw [← h, BitVec.and_assoc]
  simp

section
variable {s t : State} {i : Instr} (h : Settles s i t) (hs : s.Inv)
include h hs

theorem Settles.control_hardwired (v : Byte) (hv : t.controlReg = some v) : v &&& ~~~controlBits = 0 := by
  obtain he | ⟨-, w, hw, hm⟩ := h.controlReg
  · exact hs.control_hardwired v (he ▸ hv)
  · cases hw.symm.trans hv
    exact and_not_eq_zero_of_and_eq hm

theorem Settles.mode_hardwired (v : Byte) (hv : t.modeReg = some v) : v &&& ~~~modeBits = 0 := by
  obtain he | ⟨-, w, hw, hm⟩ := h.modeReg
  · exact hs.mode_hardwired v (he ▸ hv)
  · cases hw.symm.trans hv
    exact and_not_eq_zero_of_and_eq hm

theorem Settles.col_clamped (c : Byte) (hc : t.cursorCol = some c) : c.toNat ≤ s.cfg.cols.toNat - 1 := by
  obtain ⟨he, -⟩ | ⟨-, c0, -, he, -⟩ | ⟨-, -, -, c0, he⟩ := h.cursor
  · exact hs.col_clamped c (he ▸ hc)
  · cases he.symm.trans hc
    rw [clampCol_toNat]
    exact min_le_right _ _
  · cases he.symm.trans hc
    rw [advanceCol_toNat]
    exact min_le_right _ _

theorem Settles.row_clamped (r : Byte) (hr : t.cursorRow = some r) : r.toNat ≤ s.cfg.rows.toNat - 1 := by
  obtain ⟨-, he⟩ | ⟨-, -, r0, -, he⟩ | ⟨-, -, he, -⟩ := h.cursor
  · exact hs.row_clamped r (he ▸ hr)
  · cases he.symm.trans hr
    rw [clampRow_toNat]
    exact min_le_right _ _
  · exact hs.row_clamped r (he ▸ hr)

theorem Settles.cursor_pair : t.cursorCol.isSome = t.cursorRow.isSome := by
  obtain ⟨hc, hr⟩ | ⟨-, c, r, hc, hr⟩ | ⟨-, hne, hr, c, hc⟩ := h.cursor
  · rw [hc, hr, hs.cursor_pair]
  · rw [hc, hr]; rfl
  · rw [hc, hr, ← hs.cursor_pair, Option.isSome_iff_ne_none.mpr hne]; rfl

theorem Settles.writesLow_trace : WritesLow s t.trace := by
  obtain ⟨es, he, hpre⟩ := h.trace
  rw [he]
  exact writesLow_append hs.trace_writes fun a b hb =>
    writesLow_operationEvents hs.pins_wf i a b (hpre.subset hb)

/-- Every operation whose words lie inside the stream keeps the invariant. -/
theorem Settles.inv (hrun : s.halted = false) (hlen : s.pc + i.length ≤ s.prog.length) : t.Inv := by
  obtain ⟨hcfg, hparams, hrow, hfun, hprog⟩ := h.keepsFixed
  obtain ⟨hpc, hfh, hsf, hfp, hhd⟩ := h.runInv (faults_eq_nil_of_running hs hrun) hrun hlen
  exact
    { cols_pos := hcfg ▸ hs.cols_pos
      pins_wf := hparams ▸ hs.pins_wf
      row_table := by rw [hrow, hcfg, hs.row_table]
      function_value := by rw [hfun, hcfg, hs.function_value]
      control_hardwired := h.control_hardwired hs
      mode_hardwired := h.mode_hardwired hs
      control_first := h.control_first hs.control_first
      col_clamped := hcfg ▸ h.col_clamped hs
      row_clamped := hcfg ▸ h.row_clamped hs
      cursor_pair := h.cursor_pair hs
      pc_in_stream := hpc
      faulted_halts := hfh
      single_fault := hsf
      fault_at_pc := hfp
      halted_done := hhd
      trace_writes := by rw [hcfg, hparams]; exact h.writesLow_trace hs }

end

/-- A state that differs from one of the invariant in the fault log and `halted` alone. -/
theorem inv_of_runInv {s : State} (hs : s.Inv) {fs : List (Nat × RaisedFault)} {b : Bool}
    (h : RunInv { s with faults := fs, halted := b }) : State.Inv { s with faults := fs, halted := b } :=
  { hs with
    pc_in_stream := h.pc_in_stream
    faulted_halts := h.faulted_halts
    single_fault := h.single_fault
    fault_at_pc := h.fault_at_pc
    halted_done := h.halted_done }

/-- Every step keeps the invariant: the end of the run, an illegal word, or a decoded operation. -/
theorem step_inv {s t : State} (hs : s.Inv) (h : step s = .next t) : t.Inv := by
  obtain ⟨hrun, hcases⟩ := step_settles h
  have hf := faults_eq_nil_of_running hs hrun
  obtain ⟨hpc, rfl⟩ | ⟨w, rfl⟩ | ⟨i, rest, hd, hset⟩ := hcases
  · exact inv_of_runInv hs (runInv_completed hpc hf)
  · exact inv_of_runInv hs (runInv_faulted hf hs.pc_in_stream rfl ⟨_, rfl, rfl, rfl⟩)
  · exact hset.inv hs hrun (length_le_of_decoded_at_pc hs.pc_in_stream hd)

/-! ## The row table and the read registers -/

/-- The constructed table as numbers: no entry overflows its 9 bits (R31). -/
theorem rowOffsetTable_toNat (rows : RowCount) (cols : BitVec 8) :
    (rowOffsetTable rows cols).map BitVec.toNat =
      match rows with
      | .one => [0x00]
      | .two => [0x00, 0x40]
      | .four => [0x00, 0x40, 0x00 + cols.toNat, 0x40 + cols.toNat] := by
  have := cols.isLt
  cases rows with
  | one => rfl
  | two => rfl
  | four => simp [rowOffsetTable]; omega

/-- Entry `n` of the constructed table is the base of row `n`. -/
theorem rowOffsetTable_getD (cfg : DisplayConfig) {n : Nat} (hn : n ≤ cfg.rows.toNat - 1) :
    ((rowOffsetTable cfg.rows cfg.cols).getD n 0).toNat = rowBaseOf cfg n := by
  rw [← List.getD_map (f := BitVec.toNat), rowOffsetTable_toNat]
  cases hr : cfg.rows with
  | one =>
    rw [hr] at hn
    obtain rfl : n = 0 := Nat.le_zero.mp hn
    rfl
  | two =>
    rw [hr] at hn
    change n ≤ 1 at hn
    interval_cases n <;> rfl
  | four =>
    rw [hr] at hn
    change n ≤ 3 at hn
    interval_cases n <;> simp [rowBaseOf]

/-- A byte's bits at every index, from its eight bits; from index 8 on there is none. -/
theorem getLsbD_eq_decide {m : Byte} {p : Nat → Prop} [DecidablePred p] (hlow : ∀ k < 8, m.getLsbD k = decide (p k))
    (hp : ∀ k, p k → k < 8) (k : Nat) : m.getLsbD k = decide (p k) := by
  by_cases h : k < 8
  · exact hlow k h
  · rw [BitVec.getLsbD_of_ge _ _ (Nat.not_lt.mp h), decide_eq_false (mt (hp k) h)]

theorem getLsbD_functionBits (k : Nat) : functionBits.getLsbD k = decide (k = 2 ∨ k = 3) :=
  getLsbD_eq_decide (p := fun k => k = 2 ∨ k = 3) (by decide) (fun _ => by omega) k

theorem getLsbD_controlBits (k : Nat) : controlBits.getLsbD k = decide (k ≤ 2) :=
  getLsbD_eq_decide (p := fun k => k ≤ 2) (by decide) (fun _ => by omega) k

theorem getLsbD_modeBits (k : Nat) : modeBits.getLsbD k = decide (k ≤ 1) :=
  getLsbD_eq_decide (p := fun k => k ≤ 1) (by decide) (fun _ => by omega) k

/-- A masked read shows a bit as it is stored where the mask lets it through, and 0 elsewhere. -/
theorem getLsbD_and_mask (v : Byte) {m : Byte} {k : Nat} {b : Bool} (hm : m.getLsbD k = b) :
    (v &&& m).getLsbD k = (b && v.getLsbD k) := by
  rw [BitVec.getLsbD_and, hm, Bool.and_comm]

end Sys2Proof.Laws
end

section
/-! The statements about the state (10_state.md). -/

namespace Sys2Proof.Proofs

open Sys2Proof.Machine Sys2Proof.Laws

/-- Settles O51: `exec_settles` leaves six kinds of next state, and each field is read off them once. -/
theorem eachFieldIsWrittenOnlyByItsOperations : Obligations.EachFieldIsWrittenOnlyByItsOperations := by
  intro i s t hx
  have h := settles_of_exec hx
  obtain ⟨hcfg, hparams, hrow, hfun, hprog⟩ := h.keepsFixed
  refine ⟨hcfg, hparams, hrow, hfun, hprog, ?control, ?mode, ?col, ?row, ?light, ?resp, ?events⟩
  case control => exact fun hne => (h.controlReg.resolve_left hne).1
  case mode => exact fun hne => (h.modeReg.resolve_left hne).1
  case col =>
    intro hne
    obtain ⟨he, -⟩ | ⟨hi, -⟩ | ⟨hi, -⟩ := h.cursor
    · exact absurd he hne
    · exact List.mem_append_left [Opcode.printChar] hi
    · simp [hi]
  case row =>
    intro hne
    obtain ⟨-, he⟩ | ⟨hi, -⟩ | ⟨-, -, he, -⟩ := h.cursor
    · exact absurd he hne
    · exact hi
    · exact absurd he hne
  case light => exact h.backlight.resolve_left
  case resp => exact fun hne => (h.resp.resolve_left hne).1
  case events =>
    intro hne hq
    obtain ⟨htrace, hlatch⟩ := h.query_no_event hq
    exact hne.elim (absurd htrace) (absurd hlatch)

/-- Settles O60: the end of the run and an illegal word touch only the part about the run, and an operation keeps each
part (`Settles.inv`). -/
theorem stepKeepsTheInvariant : Obligations.StepKeepsTheInvariant := fun _ _ => step_inv

/-- Settles O3: entry by entry for each row count, and `step_keepsFixed`. -/
theorem rowOffsetTableEntries : Obligations.RowOffsetTableEntries :=
  ⟨fun cfg _ => rowOffsetTable_toNat cfg.rows cfg.cols, fun _ _ h => (step_keepsFixed h).rowOffset⟩

/-- Settles O4: the clamped row is an entry of the constructed table. -/
theorem rowLookupIsClamped : Obligations.RowLookupIsClamped := by
  intro s r htable
  rw [rowBase, htable]
  exact rowOffsetTable_getD s.cfg (min_le_right _ _)

/-- Settles O52, by the three kinds of step. -/
theorem stepOnlyExtendsTheObservation : Obligations.StepOnlyExtendsTheObservation := by
  intro s t h
  obtain ⟨hcfg, hparams, hrow, hfun, hprog⟩ := step_keepsFixed h
  obtain ⟨htrace, hresp, hfaults⟩ := step_extendsObservation h
  exact ⟨hcfg, hparams, hrow, hfun, hprog, htrace, hresp, hfaults⟩

/-- Settles O45: a masked read, bit by bit. -/
theorem hardwiredBitsReadZero : Obligations.HardwiredBitsReadZero := by
  intro s
  refine ⟨?function, ?control, ?mode, ?functionBit, ?controlUnspec, ?controlBit, ?modeUnspec, ?modeBit⟩
  case function => simp [readFunction, BitVec.and_assoc, functionBits]
  case control =>
    intro v hv
    obtain ⟨x, rfl⟩ := readControl_masked hv
    simp [BitVec.and_assoc, controlBits]
  case mode =>
    intro v hv
    obtain ⟨x, rfl⟩ := readMode_masked hv
    simp [BitVec.and_assoc, modeBits]
  case functionBit => exact fun k => getLsbD_and_mask s.functionReg (getLsbD_functionBits k)
  case controlUnspec => intro h; simp [readControl, h]
  case controlBit =>
    intro v h
    exact ⟨v &&& controlBits, by simp [readControl, h], fun k => getLsbD_and_mask v (getLsbD_controlBits k)⟩
  case modeUnspec => intro h; simp [readMode, h]
  case modeBit =>
    intro v h
    exact ⟨v &&& modeBits, by simp [readMode, h], fun k => getLsbD_and_mask v (getLsbD_modeBits k)⟩

end Sys2Proof.Proofs
end

section
/-! SUPPORT. What an operation that plays events answers when the answers of the transport are known, the command that
addresses a cursor position, and the byte of every write: `compose` with the backlight bit the operation leaves. -/

namespace Sys2Proof.Laws

open Sys2Proof.Machine

/-! ## An operation with known answers -/

/-- The last event kept of a run whose write `j` fails is that write. -/
theorem getLast?_uptoWrite {j : Nat} {es : List Event} {b : Byte} (h : writeByte j es = some b) :
    ∃ a, (uptoWrite j es).getLast? = some (.write a b) := by
  induction es generalizing j with
  | nil => cases h
  | cons e es ih =>
    cases e with
    | wait t =>
      obtain ⟨a, ha⟩ := ih h
      exact ⟨a, by simp [uptoWrite, List.getLast?_cons, ha]⟩
    | write a' b' =>
      cases j with
      | zero => cases h; exact ⟨a', rfl⟩
      | succ j =>
        obtain ⟨a, ha⟩ := ih h
        exact ⟨a, by simp [uptoWrite, List.getLast?_cons, ha]⟩

section
variable {es : List Event} {s : State} {p : Progress} (h : Plays es s p)
include h

/-- Every write answered `Ok`: the operation goes on after its events. -/
theorem Plays.complete_ok (hok : s.AnswersOk (writeCount es)) (k : State → Progress) :
    complete (p.andThen k) = complete (k (s.afterEvents es)) := by
  rw [h.eq_ok hok]
  rfl

/-- Write `j` is the first answered `Fail`: the operation ends there and takes the fault (R128, R214). -/
theorem Plays.complete_failed {j : Nat} {b : Byte} (hj : j < writeCount es) (hok : s.AnswersOk j)
    (hf : s.answerAt j = .fail) (hb : writeByte j es = some b) (k : State → Progress) :
    complete (p.andThen k) = .next (s.afterFailedWrite j es b) := by
  obtain ⟨b', hl, rfl⟩ := h.eq_raised hj hok hf
  obtain ⟨a, ha⟩ := getLast?_uptoWrite hb
  obtain ⟨-, rfl⟩ := Event.write.inj (Option.some.inj (ha.symm.trans hl))
  rfl

end

/-! ## The address of a position and CREATE_CHAR -/

/-- With the constructed table, the address command of a row of the display is that of R152. -/
theorem ddramCmd_rowBase {s : State} (htable : s.rowOffset = rowOffsetTable s.cfg.rows s.cfg.cols) {r : Byte}
    (hr : r.toNat ≤ s.cfg.rows.toNat - 1) (c : Byte) :
    ddramCmd (rowBase s r) c = ddramByte s.cfg r.toNat c.toNat := by
  rw [ddramCmd, ddramByte, rowBase, htable, min_eq_left hr, rowOffsetTable_getD s.cfg hr]

/-- Everything CREATE_CHAR can do without the restore. -/
theorem createCharBody_plays_glyph {s : State} (hres : s.params.createCharRestores = false) (location : Byte)
    (charmap : List Byte) : Plays (glyphEvents s location charmap) s (createCharBody location charmap s) := by
  rw [createCharBody, if_neg (by simp [hres])]
  exact emitGlyph_plays location charmap s

/-- Everything CREATE_CHAR can do with the restore, from a cursor that is set. -/
theorem createCharBody_plays_restore {s : State} {c r : Byte} (hres : s.params.createCharRestores = true)
    (hc : s.cursorCol = some c) (hr : s.cursorRow = some r) (location : Byte) (charmap : List Byte) :
    Plays (glyphEvents s location charmap ++ sendEvents s (ddramCmd (rowBase s r) c) .command) s
      (createCharBody location charmap s) := by
  rw [createCharBody, if_pos hres, hc, hr]
  exact (emitGlyph_plays location charmap s).andThen (emit_plays _ .command (s.afterEvents _))

/-! ## The byte of every write -/

/-- The second write of a nibble is the expander byte with the enable line set (R121). -/
theorem compose_or_enable (pins : PinMap) (nib : Nibble) (rs bl : Bool) :
    compose pins nib rs false bl ||| (1#8 <<< pins.en.val) = compose pins nib rs true bl := by
  have hline (p : Fin 8) : line false p = 0#8 := by simp [line]
  have hen : 1#8 <<< pins.en.val = line true pins.en := rfl
  rw [hen]
  simp only [compose, hline, BitVec.or_zero]
  ac_rfl

/-- Every write of `es` goes to `ADDR` and is an expander byte with the backlight bit `bl` (R61, R120, R126). -/
def ComposedWrites (s : State) (bl : Bool) (es : List Event) : Prop :=
  ∀ a b, Event.write a b ∈ es → a = s.cfg.addr ∧ ∃ nib rs en, b = compose s.params.pins nib rs en bl

section
variable {s : State} {bl : Bool}

@[simp] theorem composedWrites_nil : ComposedWrites s bl [] := fun _ _ h => nomatch h

@[simp] theorem composedWrites_wait_cons {t : Nat} {es : List Event} :
    ComposedWrites s bl (.wait t :: es) ↔ ComposedWrites s bl es := by
  simp [ComposedWrites]

@[simp] theorem composedWrites_append {es fs : List Event} :
    ComposedWrites s bl (es ++ fs) ↔ ComposedWrites s bl es ∧ ComposedWrites s bl fs where
  mp h := ⟨fun a b hb => h a b (List.mem_append_left fs hb), fun a b hb => h a b (List.mem_append_right es hb)⟩
  mpr h := fun a b hb => (List.mem_append.mp hb).elim (h.1 a b) (h.2 a b)

end

section
variable (s : State)

@[simp] theorem composedWrites_nibbleEvents (nib : Nibble) (mode : SendMode) (t : Nat) :
    ComposedWrites s s.backlight (nibbleEvents s nib mode t) := by
  intro a b h
  simp only [nibbleEvents, compose_or_enable, List.mem_cons, List.not_mem_nil, Event.write.injEq, reduceCtorEq,
    false_or, or_false] at h
  obtain ⟨ha, hb⟩ | ⟨ha, hb⟩ | ⟨ha, hb⟩ := h
  · exact ⟨ha, _, _, _, hb⟩
  · exact ⟨ha, _, _, _, hb⟩
  · exact ⟨ha, _, _, _, hb⟩

@[simp] theorem composedWrites_sendEvents (v : Byte) (mode : SendMode) :
    ComposedWrites s s.backlight (sendEvents s v mode) := by
  simp [sendEvents]

@[simp] theorem composedWrites_glyphEvents (location : Byte) (charmap : List Byte) :
    ComposedWrites s s.backlight (glyphEvents s location charmap) := by
  refine composedWrites_append.mpr ⟨composedWrites_sendEvents s _ _, fun a b h => ?_⟩
  obtain ⟨v, -, hv⟩ := List.mem_flatMap.mp h
  exact composedWrites_sendEvents s v .data a b hv

theorem composedWrites_beginEvents (fn : Byte) : ComposedWrites s s.backlight (beginEvents s fn) := by
  simp [beginEvents]

theorem composedWrites_controlEvents (bit : Byte) (set : Bool) :
    ComposedWrites s s.backlight (controlEvents s bit set) := by
  unfold controlEvents
  cases readControl s with
  | none => exact composedWrites_nil
  | some old => exact composedWrites_sendEvents s _ _

theorem composedWrites_modeEvents (bit : Byte) (set : Bool) :
    ComposedWrites s s.backlight (modeEvents s bit set) := by
  unfold modeEvents
  cases readMode s with
  | none => exact composedWrites_nil
  | some old => exact composedWrites_sendEvents s _ _

/-- The backlight bit while an operation writes: SET_BACKLIGHT sets it before its write (R180). -/
def operationBacklight : Instr → Bool
  | .setBacklight v => v
  | _ => s.backlight

theorem operationBacklight_of_ne {i : Instr} (h : i.opcode ≠ .setBacklight) :
    operationBacklight s i = s.backlight := by
  cases i with
  | setBacklight v => exact absurd rfl h
  | _ => rfl

/-- Every write of every operation, with the backlight bit that the operation writes it with. -/
theorem composedWrites_operationEvents (i : Instr) :
    ComposedWrites s (operationBacklight s i) (operationEvents s i) := by
  cases i with
  | display | noDisplay | cursor | noCursor | blink | noBlink => exact composedWrites_controlEvents s _ _
  | leftToRight | rightToLeft | autoscroll | noAutoscroll => exact composedWrites_modeEvents s _ _
  | send _ _ | setCursor _ _ | home | clear | printChar _ | scrollDisplayLeft | scrollDisplayRight =>
    exact composedWrites_sendEvents s _ _
  | begin => exact composedWrites_beginEvents s _
  | setBacklight v =>
    intro a b h
    obtain ⟨rfl, rfl⟩ := Event.write.inj (List.mem_singleton.mp h)
    exact ⟨rfl, _, _, _, rfl⟩
  | createChar location charmap =>
    refine composedWrites_append.mpr ⟨composedWrites_glyphEvents s location charmap, ?_⟩
    split
    · exact composedWrites_sendEvents s _ _
    · exact composedWrites_nil
  | getBacklight | getCursor | getFunction | getControl | getMode => exact composedWrites_nil

end

theorem Before.backlight_eq {s u : State} {i : Instr} (h : Before s i u) : u.backlight = operationBacklight s i := by
  cases h with
  | light v hi => rw [hi]; rfl
  | nothing hi | control v hv hi hs | mode v hv hi hs =>
    exact (operationBacklight_of_ne s (fun he => by simp [he] at hi)).symm

/-- An operation that made a bus event leaves the backlight bit it wrote with (R126). -/
theorem Settles.backlight_of_trace_ne {s t : State} {i : Instr} (h : Settles s i t) (hne : t.trace ≠ s.trace) :
    t.backlight = operationBacklight s i := by
  cases h with
  | uninit name hi => exact absurd rfl hne
  | query v hi => exact absurd rfl hne
  | ended u k hu hk hi => rw [hk.eq_cursor]; exact hu.backlight_eq
  | failed u j b hu hj hl hi => exact hu.backlight_eq
  | began hi => subst hi; rfl
  | beginFailed j b hi hj hl => subst hi; rfl

theorem Settles.composedWrites {s t : State} {i : Instr} (h : Settles s i t) :
    ∃ es, t.trace = s.trace ++ es ∧ ComposedWrites s t.backlight es := by
  obtain ⟨es, he, hpre⟩ := h.trace
  refine ⟨es, he, fun a b hb => ?_⟩
  have hne : t.trace ≠ s.trace := by simpa [he] using List.ne_nil_of_mem hb
  rw [h.backlight_of_trace_ne hne]
  exact composedWrites_operationEvents s i a b (hpre.subset hb)

/-- Every write a step appends is an expander byte to `ADDR`, with the backlight bit that the step leaves. -/
theorem step_composedWrites {s t : State} (h : step s = .next t) :
    ∃ es, t.trace = s.trace ++ es ∧ ComposedWrites s t.backlight es := by
  obtain ⟨-, ⟨-, rfl⟩ | ⟨w, rfl⟩ | ⟨i, rest, -, hset⟩⟩ := step_settles h
  · exact ⟨[], (List.append_nil _).symm, composedWrites_nil⟩
  · exact ⟨[], (List.append_nil _).symm, composedWrites_nil⟩
  · exact hset.composedWrites

/-- On a legal pin map no other line shares the backlight line's position (R9). -/
theorem ne_bl_of_wf {pins : PinMap} (h : pins.wf) :
    pins.d0 ≠ pins.bl ∧ pins.d1 ≠ pins.bl ∧ pins.d2 ≠ pins.bl ∧ pins.d3 ≠ pins.bl ∧
    pins.en ≠ pins.bl ∧ pins.rs ≠ pins.bl := by
  simp only [PinMap.wf, PinMap.toList, List.nodup_cons, List.mem_cons, not_or] at h
  grind

theorem getLsbD_compose_bl {pins : PinMap} (h : pins.wf) (nib : Nibble) (rs en bl : Bool) :
    (compose pins nib rs en bl).getLsbD pins.bl.val = bl := by
  obtain ⟨h0, h1, h2, h3, hen, hrs⟩ := ne_bl_of_wf h
  simp [getLsbD_compose, h0, h1, h2, h3, hen, hrs, -BitVec.getLsbD_eq_getElem]

end Sys2Proof.Laws
end

section
/-! The statements about the emitter's writes, the cursor address and the glyph memory (20_memory.md). -/

namespace Sys2Proof.Proofs

open Sys2Proof.Machine Sys2Proof.Laws

/-- Settles O54: every write is `compose` with the backlight bit the step leaves, and on a legal pin map no other line
shares the position of the backlight line or of the read/write line. -/
theorem everyWriteCarriesTheBacklightBit : Obligations.EveryWriteCarriesTheBacklightBit := by
  intro s t hwf h
  obtain ⟨es, he, hes⟩ := step_composedWrites h
  refine ⟨es, he, fun a b hb => ?_⟩
  obtain ⟨ha, nib, rs, en, rfl⟩ := hes a b hb
  exact ⟨ha, getLsbD_compose_bl hwf nib rs en _, getLsbD_compose_rw hwf nib rs en _⟩

/-- Settles O53, by the address part of `step_composedWrites`, which needs no legal pin map. -/
theorem everyWriteGoesToTheDeviceAddress : Obligations.EveryWriteGoesToTheDeviceAddress := by
  refine ⟨rfl, fun s t h => ?_⟩
  obtain ⟨es, he, hes⟩ := step_composedWrites h
  exact ⟨es, he, fun a b hb => (hes a b hb).1⟩

/-- Settles O20: `Emit` plays the events of the byte, and only the pc is written after it. -/
theorem sendEmitsOneByteAndLeavesTheShadowState : Obligations.SendEmitsOneByteAndLeavesTheShadowState :=
  fun s value mode hok => (emit_plays value mode s).complete_ok hok (finish 1)

/-- Settles O27: the emitted byte is the address of the clamped position (`ddramCmd_rowBase`). -/
theorem setCursorClampsEmitsAndMoves : Obligations.SetCursorClampsEmitsAndMoves := by
  rintro s col row _ _ htable rfl rfl hok
  have haddr := ddramCmd_rowBase htable (r := clampRow s.cfg row) (by simp) (clampCol s.cfg col)
  rw [clampRow_toNat, clampCol_toNat] at haddr
  rw [← haddr]
  exact (emit_plays _ .command s).complete_ok hok _

/-- Settles O41: with and without the restore CREATE_CHAR plays its events and writes no shadow field between them. -/
theorem failedCreateCharStopsAtThatWrite : Obligations.FailedCreateCharStopsAtThatWrite := by
  intro s location charmap es j b hes hj hok hf hb
  have hplays : Plays es s (createCharBody location charmap s) := by
    obtain ⟨hres, rfl⟩ | ⟨hres, htable, c, r, hc, hr, hrow, rfl⟩ := hes
    · exact createCharBody_plays_glyph hres location charmap
    · rw [← ddramCmd_rowBase htable hrow c]
      exact createCharBody_plays_restore hres hc hr location charmap
  exact hplays.complete_failed hj hok hf hb _

end Sys2Proof.Proofs
end

section
/-! SUPPORT. What the end of an operation says about its fault, which write of a run is the first to fail, and the
operations of one emit with the byte they send. -/

namespace Sys2Proof.Laws

open Sys2Proof.Machine

/-- The trace of a failed operation ends where its kept events end. -/
theorem getLast?_trace_afterFailedWrite {j : Nat} {es : List Event} {e : Event}
    (hl : (uptoWrite j es).getLast? = some e) (b : Byte) (u : State) :
    (u.afterFailedWrite j es b).trace.getLast? = some e := by
  change (u.trace ++ uptoWrite j es).getLast? = some e
  rw [List.getLast?_append, hl, Option.some_or]

/-- `t` has taken the `TransportFailure` of its last event's byte in `s`: one fault at the pc, which stays, and an
unknown latch (R45, R128, R214). -/
def TookTransportFailure (s t : State) : Prop :=
  ∃ b, t.faults = s.faults ++ [(s.pc, .transportFailure b)] ∧ t.halted = true ∧ t.pc = s.pc ∧
    t.trace.getLast? = some (.write s.cfg.addr b) ∧ t.latch = none

/-- `Settles.ends_or_tookFault` with the fault told apart: of a write, or of a read before any effect. -/
theorem Settles.ends_or_transportFailure_or_uninitRead {s t : State} {i : Instr} (h : Settles s i t) :
    (t.faults = s.faults ∧ t.halted = s.halted ∧ t.pc = s.pc + i.length) ∨ TookTransportFailure s t ∨
      ∃ name, t = s.afterUninitRead name := by
  cases h with
  | uninit name hi => exact .inr (.inr ⟨name, rfl⟩)
  | query v hi => exact .inl ⟨rfl, rfl, rfl⟩
  | ended u k hu hk hi => rw [hk.eq_cursor, hu.eq_registers_backlight]; exact .inl ⟨rfl, rfl, rfl⟩
  | failed u j b hu hj hl hi =>
    rw [hu.eq_registers_backlight]
    exact .inr (.inl ⟨b, rfl, rfl, rfl, getLast?_trace_afterFailedWrite hl b _, rfl⟩)
  | began hi => subst hi; exact .inl ⟨rfl, rfl, rfl⟩
  | beginFailed j b hi hj hl => exact .inr (.inl ⟨b, rfl, rfl, rfl, getLast?_trace_afterFailedWrite hl b s, rfl⟩)

/-- A write answered `Fail` is not among the first writes that are all answered `Ok`. -/
theorem le_of_answersOk {s : State} {i j : Nat} (hok : s.AnswersOk i) (hf : s.answerAt j = .fail) : i ≤ j := by
  by_contra hlt
  rw [hok j (Nat.lt_of_not_le hlt)] at hf
  cases hf

/-- Where the cursor is set, PRINT_CHAR is one emit and the advance of the column (R191). -/
theorem exec_printChar_of_cursorCol {s : State} {c : Byte} (hc : s.cursorCol = some c) (code : Byte) :
    exec (.printChar code) s =
      complete ((emit code .data s).andThen fun s1 => finish 1 (writeCursorCol (advanceCol s1.cfg c) s1)) := by
  simp only [exec, execPrintChar, hc]

/-- With the constructed table, SET_CURSOR is one emit of the clamped position's address and the move (R151, R152). -/
theorem exec_setCursor_of_rowOffset {s : State} (htable : s.rowOffset = rowOffsetTable s.cfg.rows s.cfg.cols)
    (col row : Byte) :
    exec (.setCursor col row) s =
      complete ((emit (ddramByte s.cfg (min row.toNat (s.cfg.rows.toNat - 1)) (min col.toNat (s.cfg.cols.toNat - 1)))
        .command s).andThen fun s1 => finish 1 (writeCursor (clampCol s.cfg col) (clampRow s.cfg row) s1)) := by
  have haddr := ddramCmd_rowBase htable (r := clampRow s.cfg row) (by simp) (clampCol s.cfg col)
  rw [clampRow_toNat, clampCol_toNat] at haddr
  rw [← haddr]
  rfl

/-- The constructed function register has no hard-wired bit set, so it reads as stored (R33, R34). -/
theorem readFunction_of_functionInit {s : State} (h : s.functionReg = functionInit s.cfg.rows s.cfg.charsize) :
    readFunction s = s.functionReg := by
  rw [readFunction, h, functionInit_and_functionBits]

end Sys2Proof.Laws
end

section
/-! The statements about the emitter's faults (40_emitter.md, 60_exceptions.md). -/

namespace Sys2Proof.Proofs

open Sys2Proof.Machine Sys2Proof.Laws

/-- Settles O49: `exec_settles` leaves six kinds of next state, two of them after a failed write. -/
theorem operationEndsOrTakesOneFault : Obligations.OperationEndsOrTakesOneFault := by
  intro i s
  obtain ⟨t, ht, hset⟩ := exec_settles i s
  exact ⟨t, ht, hset.ends_or_transportFailure_or_uninitRead⟩

/-- Settles O22: each of the three operations is one emit followed by what a failed write cuts off. -/
theorem failedSendLeavesTheShadowState : Obligations.FailedSendLeavesTheShadowState := by
  rintro s i value mode j b hi hj hok hf hb
  have hfail := (emit_plays value mode s).complete_failed hj hok hf hb
  obtain rfl | ⟨rfl, hcol, rfl⟩ | ⟨col, row, rfl, rfl, htable, rfl⟩ := hi
  · exact hfail (finish 1)
  · obtain ⟨c, hc⟩ := Option.ne_none_iff_exists'.mp hcol
    rw [exec_printChar_of_cursorCol hc]
    exact hfail _
  · rw [exec_setCursor_of_rowOffset htable]
    exact hfail _

/-- Settles O32: of the ways BEGIN can go (`beginBody_cases`) only the failure of write `j` agrees with the answers. -/
theorem failedBeginKeepsWhatWasWritten : Obligations.FailedBeginKeepsWhatWasWritten := by
  intro s j b hfun hj hok hf hb
  have hbody := beginBody_cases s
  rw [readFunction_of_functionInit hfun] at hbody
  obtain ⟨hok', -⟩ | ⟨j', b', -, hok', hf', hl, hbegin⟩ := hbody
  · exact absurd hj (Nat.not_lt_of_le (le_of_answersOk hok' hf))
  · obtain rfl : j = j' := le_antisymm (le_of_answersOk hok hf') (le_of_answersOk hok' hf)
    obtain ⟨a, ha⟩ := getLast?_uptoWrite hb
    obtain ⟨-, rfl⟩ := Event.write.inj (Option.some.inj (ha.symm.trans hl))
    change complete ((beginBody s).andThen (finish 1)) = _
    rw [hbegin]
    rfl

/-- Settles O35: the one write is made from the state that already holds the new backlight. -/
theorem failedSetBacklightKeepsTheNewState : Obligations.FailedSetBacklightKeepsTheNewState := by
  rintro s v _ rfl hf
  have hplays := plays_busWrite (compose s.params.pins 0x0#4 false false v) (writeBacklight v s)
  exact hplays.complete_failed Nat.zero_lt_one (fun _ hk => absurd hk (Nat.not_lt_zero _)) hf rfl (finish 1)

end Sys2Proof.Proofs
end

section
/-! SUPPORT. What a toggle, HOME or CLEAR answers when its read or the answers of the transport are known. -/

namespace Sys2Proof.Laws

open Sys2Proof.Machine

/-! ## The toggles -/

/-- A toggle of an `UNSPEC` `x[CONTROL]` faults at its read (R140, R213). -/
theorem complete_toggleControl_uninit {s : State} (h : s.controlReg = none) (bit : Byte) (set : Bool) :
    complete (toggleControl bit set s) = .next (s.afterUninitRead .control) := by
  simp only [toggleControl, readControl, h]
  rfl

/-- A toggle of an `UNSPEC` `x[MODE]` faults at its read (R140, R213). -/
theorem complete_toggleMode_uninit {s : State} (h : s.modeReg = none) (bit : Byte) (set : Bool) :
    complete (toggleMode bit set s) = .next (s.afterUninitRead .mode) := by
  simp only [toggleMode, readMode, h]
  rfl

section
variable {s : State} {old bit : Byte} {set : Bool}

theorem complete_toggleControl_ok (h : readControl s = some old) (hb : bit &&& controlBits = bit)
    (hok : s.AnswersOk 6) :
    complete (toggleControl bit set s) =
      .next { s.afterEvents (sendEvents s (s.params.codes.displayControl ||| toggleBits bit set old) .command) with
        controlReg := some (toggleBits bit set old), pc := s.pc + 1 } := by
  obtain ⟨p, hp, ht⟩ := toggleControl_plays (set := set) h hb
  rw [ht]
  exact hp.complete_ok hok (finish 1)

/-- The register is written before the emit, so a failed write leaves the new value in it (R140, D16). -/
theorem complete_toggleControl_failed (h : readControl s = some old) (hb : bit &&& controlBits = bit) {j : Nat}
    {b : Byte} (hj : j < 6) (hok : s.AnswersOk j) (hf : s.answerAt j = .fail)
    (hw : writeByte j (sendEvents s (s.params.codes.displayControl ||| toggleBits bit set old) .command) = some b) :
    complete (toggleControl bit set s) =
      .next { s.afterFailedWrite j
          (sendEvents s (s.params.codes.displayControl ||| toggleBits bit set old) .command) b with
        controlReg := some (toggleBits bit set old) } := by
  obtain ⟨p, hp, ht⟩ := toggleControl_plays (set := set) h hb
  rw [ht]
  exact hp.complete_failed hj hok hf hw (finish 1)

theorem complete_toggleMode_ok (h : readMode s = some old) (hb : bit &&& modeBits = bit) (hok : s.AnswersOk 6) :
    complete (toggleMode bit set s) =
      .next { s.afterEvents (sendEvents s (s.params.codes.entryModeSet ||| toggleBits bit set old) .command) with
        modeReg := some (toggleBits bit set old), pc := s.pc + 1 } := by
  obtain ⟨p, hp, ht⟩ := toggleMode_plays (set := set) h hb
  rw [ht]
  exact hp.complete_ok hok (finish 1)

/-- The register is written before the emit, so a failed write leaves the new value in it (R140, D16). -/
theorem complete_toggleMode_failed (h : readMode s = some old) (hb : bit &&& modeBits = bit) {j : Nat}
    {b : Byte} (hj : j < 6) (hok : s.AnswersOk j) (hf : s.answerAt j = .fail)
    (hw : writeByte j (sendEvents s (s.params.codes.entryModeSet ||| toggleBits bit set old) .command) = some b) :
    complete (toggleMode bit set s) =
      .next { s.afterFailedWrite j
          (sendEvents s (s.params.codes.entryModeSet ||| toggleBits bit set old) .command) b with
        modeReg := some (toggleBits bit set old) } := by
  obtain ⟨p, hp, ht⟩ := toggleMode_plays (set := set) h hb
  rw [ht]
  exact hp.complete_failed hj hok hf hw (finish 1)

end

/-! ## HOME and CLEAR -/

/-- The last event of a sent byte is its settle (R122, R125). -/
theorem getLast?_sendEvents (s : State) (value : Byte) (mode : SendMode) :
    (sendEvents s value mode).getLast? = some (.wait (settleTime s.params.timing value mode)) := by
  rw [settleTime_eq]
  rfl

section
variable {s : State} {value : Byte}

theorem complete_emitThenOrigin_ok (hok : s.AnswersOk 6) :
    complete ((emitThenOrigin value s).andThen (finish 1)) =
      .next { s.afterEvents (sendEvents s value .command) with
        cursorCol := some 0#8, cursorRow := some 0#8, pc := s.pc + 1 } := by
  rw [emitThenOrigin_andThen, clampCol_zero, clampRow_zero]
  exact (emit_plays value .command s).complete_ok hok _

/-- The cursor is written after the emit, so a failed write leaves it unchanged (R153, R155). -/
theorem complete_emitThenOrigin_failed {j : Nat} {b : Byte} (hj : j < 6) (hok : s.AnswersOk j)
    (hf : s.answerAt j = .fail) (hw : writeByte j (sendEvents s value .command) = some b) :
    complete ((emitThenOrigin value s).andThen (finish 1)) =
      .next (s.afterFailedWrite j (sendEvents s value .command) b) := by
  rw [emitThenOrigin_andThen]
  exact (emit_plays value .command s).complete_failed hj hok hf hw _

end

end Sys2Proof.Laws
end

section
/-! The statements about the toggles, HOME and CLEAR (41_register_state.md). -/

namespace Sys2Proof.Proofs

open Sys2Proof.Machine Sys2Proof.Laws

/-- Settles O23: each row of the list is `toggleControl` of one of the register's own bits, by its word. -/
theorem controlTogglesWriteOneBitAndEmitTheRegister : Obligations.ControlTogglesWriteOneBitAndEmitTheRegister := by
  intro i w bit set hrow
  have htoggle : decode [w] = .decoded i [] ∧ bit &&& controlBits = bit ∧
      ∀ s, exec i s = complete (toggleControl bit set s) := by
    simp only [List.mem_cons, Prod.mk.injEq, List.not_mem_nil, or_false] at hrow
    obtain ⟨rfl, rfl, rfl, rfl⟩ | ⟨rfl, rfl, rfl, rfl⟩ | ⟨rfl, rfl, rfl, rfl⟩ | ⟨rfl, rfl, rfl, rfl⟩ |
      ⟨rfl, rfl, rfl, rfl⟩ | ⟨rfl, rfl, rfl, rfl⟩ := hrow <;>
      exact ⟨by decide, by decide, fun _ => rfl⟩
  obtain ⟨hdecode, hbit, hexec⟩ := htoggle
  refine ⟨hdecode, fun s => ⟨fun hnone => ?unspec, ?_⟩⟩
  case unspec => rw [hexec, complete_toggleControl_uninit hnone]
  rintro old _ hold rfl
  rw [hexec]
  exact ⟨complete_toggleControl_ok hold hbit, fun _ _ => complete_toggleControl_failed hold hbit⟩

/-- Settles O24: each row of the list is `toggleMode` of one of the register's own bits, by its word. -/
theorem modeTogglesWriteOneBitAndEmitTheRegister : Obligations.ModeTogglesWriteOneBitAndEmitTheRegister := by
  intro i w bit set hrow
  have htoggle : decode [w] = .decoded i [] ∧ bit &&& modeBits = bit ∧
      ∀ s, exec i s = complete (toggleMode bit set s) := by
    simp only [List.mem_cons, Prod.mk.injEq, List.not_mem_nil, or_false] at hrow
    obtain ⟨rfl, rfl, rfl, rfl⟩ | ⟨rfl, rfl, rfl, rfl⟩ | ⟨rfl, rfl, rfl, rfl⟩ | ⟨rfl, rfl, rfl, rfl⟩ := hrow <;>
      exact ⟨by decide, by decide, fun _ => rfl⟩
  obtain ⟨hdecode, hbit, hexec⟩ := htoggle
  refine ⟨hdecode, fun s => ⟨fun hnone => ?unspec, ?_⟩⟩
  case unspec => rw [hexec, complete_toggleMode_uninit hnone]
  rintro old _ hold rfl
  rw [hexec]
  exact ⟨complete_toggleMode_ok hold hbit, fun _ _ => complete_toggleMode_failed hold hbit⟩

/-- Settles O29: each of the two words is `emitThenOrigin` of a command with the long settle. -/
theorem homeAndClearEmitAndGoToTheOrigin : Obligations.HomeAndClearEmitAndGoToTheOrigin := by
  intro i w value hrow
  have horigin : decode [w] = .decoded i [] ∧ (∀ t, settleTime t value .command = t.tExecLong) ∧
      ∀ s, exec i s = complete ((emitThenOrigin value s).andThen (finish 1)) := by
    simp only [List.mem_cons, Prod.mk.injEq, List.not_mem_nil, or_false] at hrow
    obtain ⟨rfl, rfl, rfl⟩ | ⟨rfl, rfl, rfl⟩ := hrow <;>
      exact ⟨by decide, fun _ => rfl, fun _ => rfl⟩
  obtain ⟨hdecode, hsettle, hexec⟩ := horigin
  refine ⟨hdecode, fun s => ?_⟩
  rw [hexec]
  refine ⟨fun hok => ⟨?settle, complete_emitThenOrigin_ok hok⟩, fun _ _ => complete_emitThenOrigin_failed⟩
  case settle => rw [getLast?_sendEvents, hsettle]

end Sys2Proof.Proofs
end

section
/-! SUPPORT. How a list of operations runs, the answers left after events, SET_BACKLIGHT with its write answered, and
the value of each query. -/

namespace Sys2Proof.Laws

open Sys2Proof.Machine

/-! ## Lists of operations -/

/-- An operation that ends in a running block hands over to the rest of the list. -/
theorem execAll_cons_of_exec {i : Instr} {is : List Instr} {s t : State} (hx : exec i s = .next t)
    (hrun : t.halted = false) : execAll (i :: is) s = execAll is t := by
  simp [execAll, hx, hrun]

/-- The last operation's next state is that of the list, whether it halts the block or not. -/
theorem execAll_singleton_of_exec {i : Instr} {s t : State} (hx : exec i s = .next t) : execAll [i] s = .next t := by
  simp [execAll, hx]

/-- The answers to the writes of `es` are used up; those after them are still to come (R66). -/
theorem answersOk_afterEvents {s : State} {es : List Event} {n : Nat} (hok : s.AnswersOk (writeCount es + n)) :
    (s.afterEvents es).AnswersOk n := by
  intro k hk
  rw [answerAt_afterEvents]
  exact hok _ (Nat.add_lt_add_left hk _)

/-! ## SET_BACKLIGHT -/

/-- SET_BACKLIGHT's one write, answered `Ok` (R180, R181). -/
theorem exec_setBacklight_of_answersOk {s : State} (hok : s.AnswersOk 1) (v : Bool) :
    exec (.setBacklight v) s =
      .next { s.afterEvents [.write s.cfg.addr (compose s.params.pins 0x0#4 false false v)] with
        backlight := v, pc := s.pc + 1 } :=
  (plays_busWrite (compose s.params.pins 0x0#4 false false v) (writeBacklight v s)).complete_ok hok (finish 1)

/-- `t` is a running block that holds the backlight `v` and has the responses and the fault log of `s`. -/
structure RunsWithBacklight (v : Bool) (s t : State) : Prop where
  running : t.halted = false
  backlight : t.backlight = v
  resp : t.resp = s.resp
  faults : t.faults = s.faults

theorem RunsWithBacklight.trans {v w : Bool} {s t u : State} (h : RunsWithBacklight v s t)
    (h' : RunsWithBacklight w t u) : RunsWithBacklight w s u :=
  ⟨h'.running, h'.backlight, h'.resp.trans h.resp, h'.faults.trans h.faults⟩

/-- At the head of a list SET_BACKLIGHT uses up one answer and leaves the new backlight to the rest. -/
theorem execAll_setBacklight_cons {s : State} {n : Nat} (hrun : s.halted = false) (hok : s.AnswersOk (1 + n))
    (v : Bool) :
    ∃ t, (∀ is, execAll (.setBacklight v :: is) s = execAll is t) ∧ RunsWithBacklight v s t ∧ t.AnswersOk n := by
  have hfirst : s.AnswersOk 1 := fun k hk => hok k (Nat.lt_add_right n hk)
  exact ⟨_, fun _ => execAll_cons_of_exec (exec_setBacklight_of_answersOk hfirst v) hrun, ⟨hrun, rfl, rfl, rfl⟩,
    answersOk_afterEvents (es := [.write _ _]) hok⟩

/-! ## The queries -/

theorem backlightResponse_eq_ite (b : Bool) : backlightResponse b = if b then 1 else 0 := by
  cases b <;> rfl

theorem exec_getBacklight (s : State) :
    exec .getBacklight s = .next (advance 1 (respond (backlightResponse s.backlight) s)) := rfl

theorem exec_getCursor_of_cursor {s : State} {c r : Byte} (hc : s.cursorCol = some c) (hr : s.cursorRow = some r) :
    exec .getCursor s = .next (advance 1 (respond (cursorResponse c r) s)) := by
  simp only [exec, execGetCursor, getCursorBody, hc, hr]
  rfl

theorem exec_getFunction (s : State) :
    exec .getFunction s = .next (advance 1 (respond (zext16 (readFunction s)) s)) := rfl

theorem exec_getControl_of_readControl {s : State} {x : Byte} (h : readControl s = some x) :
    exec .getControl s = .next (advance 1 (respond (zext16 x) s)) := by
  simp only [exec, execGetControl, h]
  rfl

theorem exec_getMode_of_readMode {s : State} {x : Byte} (h : readMode s = some x) :
    exec .getMode s = .next (advance 1 (respond (zext16 x) s)) := by
  simp only [exec, execGetMode, h]
  rfl

/-- GET_BACKLIGHT at the end of a list, after operations that left the responses and the fault log of `s`. -/
theorem execAll_getBacklight_of_runsWithBacklight {v : Bool} {s t : State} (h : RunsWithBacklight v s t) :
    ∃ u, execAll [.getBacklight] t = .next u ∧ u.resp = s.resp ++ [backlightResponse v] ∧ u.backlight = v ∧
      u.faults = s.faults := by
  obtain ⟨-, hlight, hresp, hfaults⟩ := h
  refine ⟨_, execAll_singleton_of_exec (exec_getBacklight t), ?_, hlight, hfaults⟩
  rw [← hresp, ← hlight]
  rfl

end Sys2Proof.Laws
end

section
/-! The statements about the backlight and the queries (43_backlight.md, 45_queries.md). -/

namespace Sys2Proof.Proofs

open Sys2Proof.Machine Sys2Proof.Laws

/-- Settles O36: each SET_BACKLIGHT uses up one of the two answers, and GET_BACKLIGHT answers what the last one set. -/
theorem backlightLaw : Obligations.BacklightLaw := by
  intro s hrun hok
  obtain ⟨s1, hon, hset1, hok1⟩ := execAll_setBacklight_cons (n := 1) hrun hok true
  obtain ⟨s2, hoff, hset2, -⟩ := execAll_setBacklight_cons (n := 0) hset1.running hok1 false
  rw [hon, hoff, hon]
  exact ⟨execAll_getBacklight_of_runsWithBacklight (hset1.trans hset2),
    execAll_getBacklight_of_runsWithBacklight hset1⟩

/-- Settles O42: one lemma for each query, where its field is defined. -/
theorem queriesRespondAndChangeNothingElse : Obligations.QueriesRespondAndChangeNothingElse := by
  rintro s i v (⟨rfl, rfl⟩ | ⟨c, r, rfl, hc, hr, rfl⟩ | ⟨rfl, rfl⟩ | ⟨x, rfl, hx, rfl⟩ | ⟨x, rfl, hx, rfl⟩)
  · rw [← backlightResponse_eq_ite]
    exact exec_getBacklight s
  · exact exec_getCursor_of_cursor hc hr
  · exact exec_getFunction s
  · exact exec_getControl_of_readControl hx
  · exact exec_getMode_of_readMode hx

end Sys2Proof.Proofs
end

section
/-! The statement about the display shifts (44_text_glyphs.md). -/

namespace Sys2Proof.Proofs

open Sys2Proof.Machine

/-- Settles O21: a display shift, by its word, is SEND of its one command byte, whose success is O20 and whose failures
are O22. -/
theorem displayShiftsEmitOneCommand : Obligations.DisplayShiftsEmitOneCommand := by
  intro i w value hrow
  have hsend : decode [w] = .decoded i [] ∧ ∀ s, exec i s = exec (.send value .command) s := by
    simp only [List.mem_cons, Prod.mk.injEq, List.not_mem_nil, or_false] at hrow
    obtain ⟨rfl, rfl, rfl⟩ | ⟨rfl, rfl, rfl⟩ := hrow <;>
      exact ⟨by decide, fun _ => rfl⟩
  obtain ⟨hdecode, hexec⟩ := hsend
  refine ⟨hdecode, fun s => ?_⟩
  rw [hexec]
  exact ⟨sendEmitsOneByteAndLeavesTheShadowState s value .command,
    fun j b => failedSendLeavesTheShadowState s _ value .command j b (.inl rfl)⟩

end Sys2Proof.Proofs
end

section
/-! SUPPORT. What the registers read in terms of what is stored, and the value of the function register. -/

namespace Sys2Proof.Laws

open Sys2Proof.Machine

/-- A value without bits outside a mask is unchanged by it: the converse of `and_not_eq_zero_of_and_eq`. -/
theorem and_eq_of_and_not_eq_zero {v m : Byte} (h : v &&& ~~~m = 0) : v &&& m = v :=
  calc v &&& m
    _ = v &&& m ||| v &&& ~~~m := by rw [h]; exact BitVec.or_zero.symm
    _ = v &&& (m ||| ~~~m) := BitVec.and_or_distrib_left.symm
    _ = v := by rw [BitVec.or_not_self, BitVec.and_allOnes]

/-- A stored `x[CONTROL]` whose hard-wired bits are 0 reads as itself (R35). -/
theorem readControl_of_hardwired {s : State} {v : Byte} (h : s.controlReg = some v) (hv : v &&& ~~~controlBits = 0) :
    readControl s = some v := by
  rw [readControl, h, Option.map_some, and_eq_of_and_not_eq_zero hv]

/-- A stored `x[MODE]` whose hard-wired bits are 0 reads as itself (R36). -/
theorem readMode_of_hardwired {s : State} {v : Byte} (h : s.modeReg = some v) (hv : v &&& ~~~modeBits = 0) :
    readMode s = some v := by
  rw [readMode, h, Option.map_some, and_eq_of_and_not_eq_zero hv]

/-- GET_CONTROL of an `UNSPEC` register faults at its read (R202, R213). -/
theorem exec_getControl_of_unspec {s : State} (h : s.controlReg = none) :
    exec .getControl s = .next (s.afterUninitRead .control) := by
  simp only [exec, execGetControl, readControl, h]
  rfl

/-- GET_MODE of an `UNSPEC` register faults at its read (R203, R213). -/
theorem exec_getMode_of_unspec {s : State} (h : s.modeReg = none) :
    exec .getMode s = .next (s.afterUninitRead .mode) := by
  simp only [exec, execGetMode, readMode, h]
  rfl

/-- The construction value as a response: bit `N` from the row count and bit `F` from the character size (R34, D20). -/
theorem zext16_functionInit (rows : RowCount) (charsize : CharSize) :
    zext16 (functionInit rows charsize) =
      (if rows.toNat ≥ 2 then 0x0008 else 0x0000) ||| (if charsize = .dots5x10 then 0x0004 else 0x0000) := by
  cases rows <;> cases charsize <;> rfl

end Sys2Proof.Laws
end

section
/-! The statements about the three register queries (45_queries.md). -/

namespace Sys2Proof.Proofs

open Sys2Proof.Machine Sys2Proof.Laws

/-- Settles O43: GET_CONTROL and GET_MODE answer what the register reads as, and a stored value whose hard-wired bits
are 0 reads as itself. -/
theorem registerQueriesAnswerOrFault : Obligations.RegisterQueriesAnswerOrFault := by
  refine ⟨by decide, by decide, fun s => ⟨exec_getControl_of_unspec, ?_, ?_, exec_getMode_of_unspec, ?_, ?_⟩⟩
  · exact fun _ hread => exec_getControl_of_readControl hread
  · exact fun _ hreg hwired => exec_getControl_of_readControl (readControl_of_hardwired hreg hwired)
  · exact fun _ hread => exec_getMode_of_readMode hread
  · exact fun _ hreg hwired => exec_getMode_of_readMode (readMode_of_hardwired hreg hwired)

/-- Settles O44: the construction value has no hard-wired bit set, so it reads as itself. -/
theorem getFunctionAnswersTheConstructionValue : Obligations.GetFunctionAnswersTheConstructionValue := by
  intro s hfun
  refine ⟨_, exec_getFunction s, ?_⟩
  rw [← zext16_functionInit, ← hfun, ← readFunction_of_functionInit hfun]
  rfl

end Sys2Proof.Proofs
end

section
/-! The statement about CREATE_CHAR without the restore (44_text_glyphs.md). -/

namespace Sys2Proof.Proofs

open Sys2Proof.Machine Sys2Proof.Laws

/-- Settles O39: without the restore CREATE_CHAR plays the glyph's events and then only advances the pc, past the first
word and the extension words. -/
theorem createCharSendsTheGlyph : Obligations.CreateCharSendsTheGlyph := by
  intro s location charmap hres hok
  rw [← writeCount_glyphEvents s location charmap] at hok
  rw [Nat.add_assoc]
  exact (createCharBody_plays_glyph hres location charmap).complete_ok hok (finish (1 + charmap.length))

end Sys2Proof.Proofs
end

section
/-! SUPPORT. The cost of a list of events (its writes, waits and sum of minimum waits, R253), of each sequence the
operations are built from, and of every operation's events, with the default waits and command codes. -/

namespace Sys2Proof.Laws

open Sys2Proof.Machine

/-! ## The cost of events -/

/-- `W` events, `T` events and the sum of minimum waits of a list of events: a row of the table of R253. -/
def eventCost (es : List Event) : Nat × Nat × Nat := (writeCount es, waitCount es, waitSum es)

@[simp] theorem eventCost_nil : eventCost [] = 0 := rfl

/-- Costs add up, which is what makes the cost of an operation the sum over its bytes. -/
@[simp] theorem eventCost_append (es fs : List Event) : eventCost (es ++ fs) = eventCost es + eventCost fs := by
  simp [eventCost]

/-- The cost of one sent byte without the long settle (R122). -/
abbrev byteCost : Nat × Nat × Nat := (6, 6, 74900)

/-- Of the command bytes only `0x01`, `0x02` and `0x03` take the long settle (R123). -/
theorem operationCost_send_of_four_le {v : Byte} (hv : 4 ≤ v.toNat) (restores : Bool) (mode : SendMode) :
    operationCost restores (.send v mode) = byteCost := by
  refine if_neg ?_
  rintro ⟨-, rfl | rfl | rfl⟩ <;> revert hv <;> decide

section
variable {s : State} (htiming : s.params.timing = defaultTiming)
include htiming

theorem eventCost_nibbleEvents (nib : Nibble) (mode : SendMode) (t : Nat) :
    eventCost (nibbleEvents s nib mode t) = (3, 3, 450 + t) := by
  simp [eventCost, nibbleEvents, writeCount, waitCount, waitSum, htiming, defaultTiming, Nat.add_comm]

/-- A byte costs the same whichever operation sends it: its row is the one of SEND. -/
theorem eventCost_sendEvents (restores : Bool) (v : Byte) (mode : SendMode) :
    eventCost (sendEvents s v mode) = operationCost restores (.send v mode) := by
  rw [sendEvents, eventCost_append, eventCost_nibbleEvents htiming, eventCost_nibbleEvents htiming, htiming,
    operationCost]
  split <;> rfl

theorem eventCost_sendEvents_data (v : Byte) : eventCost (sendEvents s v .data) = byteCost := by
  rw [eventCost_sendEvents htiming false, operationCost, if_neg (by simp)]

/-- Every command byte but SEND's own, HOME's and CLEAR's has a bit of its code from bit 2 up set, so it takes the short
settle. -/
theorem eventCost_sendEvents_or {c : Byte} (hc : 4 ≤ c.toNat) (v : Byte) (mode : SendMode) :
    eventCost (sendEvents s (c ||| v) mode) = byteCost := by
  have hle : 4 ≤ (c ||| v).toNat := by
    rw [BitVec.toNat_or]
    exact hc.trans Nat.left_le_or
  rw [eventCost_sendEvents htiming false, operationCost_send_of_four_le hle]

theorem eventCost_sendEvents_ddramCmd (base : BitVec 9) (c : Byte) (mode : SendMode) :
    eventCost (sendEvents s (ddramCmd base c) mode) = byteCost :=
  eventCost_sendEvents_or htiming (by decide) _ mode

theorem eventCost_flatMap_sendEvents_data (bs : List Byte) :
    eventCost (bs.flatMap fun b => sendEvents s b .data) = bs.length • byteCost := by
  induction bs with
  | nil => rfl
  | cons b bs ih =>
    rw [List.flatMap_cons, eventCost_append, eventCost_sendEvents_data htiming, ih, List.length_cons, succ_nsmul']

theorem eventCost_glyphEvents (location : Byte) (charmap : List Byte) :
    eventCost (glyphEvents s location charmap) = (1 + charmap.length) • byteCost := by
  rw [glyphEvents, eventCost_append, eventCost_sendEvents_or htiming (by decide),
    eventCost_flatMap_sendEvents_data htiming, add_nsmul, one_nsmul]

theorem eventCost_operationEvents_createChar (location : Byte) (charmap : List Byte) :
    eventCost (operationEvents s (.createChar location charmap)) =
      operationCost s.params.createCharRestores (.createChar location charmap) := by
  rw [operationEvents, eventCost_append, eventCost_glyphEvents htiming, operationCost]
  cases s.params.createCharRestores with
  | false => simp [Nat.mul_comm]
  | true =>
    rw [if_pos rfl, if_pos rfl, eventCost_sendEvents_ddramCmd htiming, ← succ_nsmul]
    simp [Nat.mul_comm]

variable (hcodes : s.params.codes = defaultCodes)
include hcodes

/-- One wait, four nibbles and four bytes, the last of them CLEAR's (R170, R171). -/
theorem eventCost_beginEvents (restores : Bool) (fn : Byte) :
    eventCost (beginEvents s fn) = operationCost restores .begin := by
  simp only [beginEvents, eventCost_append, eventCost_nibbleEvents htiming, hcodes]
  rw [eventCost_sendEvents_or htiming (by decide), eventCost_sendEvents_or htiming (by decide),
    eventCost_sendEvents_or htiming (by decide), eventCost_sendEvents htiming restores, htiming]
  simp [eventCost, writeCount, waitCount, waitSum, operationCost, defaultTiming]

theorem eventCost_controlEvents (hreg : s.controlReg ≠ none) (bit : Byte) (set : Bool) :
    eventCost (controlEvents s bit set) = byteCost := by
  obtain ⟨v, hv⟩ := Option.ne_none_iff_exists'.mp hreg
  rw [controlEvents, readControl, hv, hcodes]
  exact eventCost_sendEvents_or htiming (by decide) _ .command

theorem eventCost_modeEvents (hreg : s.modeReg ≠ none) (bit : Byte) (set : Bool) :
    eventCost (modeEvents s bit set) = byteCost := by
  obtain ⟨v, hv⟩ := Option.ne_none_iff_exists'.mp hreg
  rw [modeEvents, readMode, hv, hcodes]
  exact eventCost_sendEvents_or htiming (by decide) _ .command

end

/-! ## The events of an operation without a fault -/

/-- The register a toggle reads holds a value. -/
structure ToggledRegisterSet (s : State) (i : Instr) : Prop where
  control : i.opcode ∈ controlOpcodes → s.controlReg ≠ none
  mode : i.opcode ∈ modeOpcodes → s.modeReg ≠ none

theorem toggledRegisterSet_of_not_toggle {i : Instr} (h : i.opcode ∉ controlOpcodes ++ modeOpcodes) (s : State) :
    ToggledRegisterSet s i where
  control hi := absurd (List.mem_append_left _ hi) h
  mode hi := absurd (List.mem_append_right _ hi) h

theorem Before.toggledRegisterSet {s u : State} {i : Instr} (h : Before s i u) : ToggledRegisterSet s i := by
  have hdisjoint : ∀ op ∈ controlOpcodes, op ∉ modeOpcodes := by decide
  cases h with
  | nothing hi =>
    have hplain : ∀ op ∈ plainOpcodes, op ∉ controlOpcodes ++ modeOpcodes := by decide
    exact toggledRegisterSet_of_not_toggle (hplain _ hi) s
  | control v hv hi hs => exact ⟨fun _ => hs, fun hm => absurd hm (hdisjoint _ hi)⟩
  | mode v hv hi hs => exact ⟨fun hc => absurd hi (hdisjoint _ hc), fun _ => hs⟩
  | light v hi => subst hi; exact toggledRegisterSet_of_not_toggle (by simp [Instr.opcode]) s

theorem operationEvents_of_query {i : Instr} (h : i.opcode ∈ queryOpcodes) (s : State) : operationEvents s i = [] := by
  cases i with
  | getBacklight | getCursor | getFunction | getControl | getMode => rfl
  | _ => simp [Instr.opcode] at h

/-- An operation that takes no fault appends its events whole, and the register it toggles held a value. -/
theorem Settles.trace_of_faults_eq {s t : State} {i : Instr} (h : Settles s i t) (hf : t.faults = s.faults) :
    t.trace = s.trace ++ operationEvents s i ∧ ToggledRegisterSet s i := by
  cases h with
  | uninit name hi => simp [State.afterUninitRead] at hf
  | query v hi =>
    have hquery : ∀ op ∈ queryOpcodes, op ∉ controlOpcodes ++ modeOpcodes := by decide
    rw [operationEvents_of_query hi, List.append_nil]
    exact ⟨rfl, toggledRegisterSet_of_not_toggle (hquery _ hi) s⟩
  | ended u k hu hk hi =>
    rw [hk.eq_cursor]
    exact ⟨congrArg (· ++ _) (by rw [hu.eq_registers_backlight]), hu.toggledRegisterSet⟩
  | failed u j b hu hj hl hi =>
    rw [hu.eq_registers_backlight] at hf
    simp [State.afterFailedWrite] at hf
  | began hi => subst hi; exact ⟨rfl, toggledRegisterSet_of_not_toggle (by decide) s⟩
  | beginFailed j b hi hj hl => simp [State.afterFailedWrite] at hf

/-- The events of every operation have the cost of its row in the table of R253. -/
theorem eventCost_operationEvents {s : State} {i : Instr} (htiming : s.params.timing = defaultTiming)
    (hcodes : s.params.codes = defaultCodes) (hset : ToggledRegisterSet s i) :
    eventCost (operationEvents s i) = operationCost s.params.createCharRestores i := by
  cases i with
  | send _ _ | home | clear | scrollDisplayLeft | scrollDisplayRight =>
    exact eventCost_sendEvents htiming s.params.createCharRestores _ _
  | display | noDisplay | cursor | noCursor | blink | noBlink =>
    exact eventCost_controlEvents htiming hcodes (hset.control (by decide)) _ _
  | leftToRight | rightToLeft | autoscroll | noAutoscroll =>
    exact eventCost_modeEvents htiming hcodes (hset.mode (by decide)) _ _
  | setCursor col row => exact eventCost_sendEvents_ddramCmd htiming _ _ _
  | begin => exact eventCost_beginEvents htiming hcodes _ _
  | printChar code => exact eventCost_sendEvents_data htiming code
  | createChar location charmap => exact eventCost_operationEvents_createChar htiming location charmap
  | setBacklight _ | getBacklight | getCursor | getFunction | getControl | getMode => rfl

end Sys2Proof.Laws
end

section
/-! The statement about the cost of the operations (70_reset_and_hazards.md). -/

namespace Sys2Proof.Proofs

open Sys2Proof.Machine Sys2Proof.Laws

/-- Settles O56: an operation without a new fault appends its events whole, and their cost is its row of the table. -/
theorem operationCosts : Obligations.OperationCosts := by
  intro i s t es htiming hcodes hexec hfaults htrace
  obtain ⟨hwhole, hset⟩ := (settles_of_exec hexec).trace_of_faults_eq hfaults
  obtain rfl : es = operationEvents s i := List.append_cancel_left (htrace.symm.trans hwhole)
  exact eventCost_operationEvents htiming hcodes hset

end Sys2Proof.Proofs
end

section
/-! SUPPORT. The decoder said once, as an equivalence (`decode_cons_eq_decoded_iff`): the first word's opcode and fields
give the operation, and the number of its extension words (R90, R92, R98). -/

namespace Sys2Proof.Laws

open Sys2Proof.Machine

/-! ## The first word -/

/-- A first word decodes to an opcode exactly when it carries its code and legal reserved fields (R93, R94). -/
theorem decodeOpcode_eq_some_iff {w : Word} {op : Opcode} :
    decodeOpcode w = some op ↔
      opcField w = op.code ∧ op.format.reservedOk (fieldA w) (fieldB w) (fieldC w) = true where
  mp := decodeOpcode_some
  mpr h := by
    have hpacked := decodeOpcode_packWord op _ _ _ h.2
    rwa [← h.1, packWord_fields] at hpacked

/-- The operation of an opcode with the operands that the first word's fields hold (R91). -/
def operationOf (w : Word) (bytes : List Byte) : Opcode → Instr
  | .send => .send (fieldA w) (modeOfBit ((fieldB w).getLsbD 0))
  | .setCursor => .setCursor (fieldA w) (fieldB w)
  | .setBacklight => .setBacklight ((fieldA w).getLsbD 0)
  | .printChar => .printChar (fieldA w)
  | .createChar => .createChar (fieldA w) bytes
  | .display => .display
  | .noDisplay => .noDisplay
  | .cursor => .cursor
  | .noCursor => .noCursor
  | .blink => .blink
  | .noBlink => .noBlink
  | .leftToRight => .leftToRight
  | .rightToLeft => .rightToLeft
  | .autoscroll => .autoscroll
  | .noAutoscroll => .noAutoscroll
  | .home => .home
  | .clear => .clear
  | .begin => .begin
  | .getBacklight => .getBacklight
  | .scrollDisplayLeft => .scrollDisplayLeft
  | .scrollDisplayRight => .scrollDisplayRight
  | .getCursor => .getCursor
  | .getFunction => .getFunction
  | .getControl => .getControl
  | .getMode => .getMode

/-- How many extension words a first word of this opcode announces (R92). -/
def extensionCount (w : Word) (op : Opcode) : Nat := if op = .createChar then (fieldB w).toNat else 0

theorem extensionCount_of_ne {op : Opcode} (h : op ≠ .createChar) (w : Word) : extensionCount w op = 0 := if_neg h

/-- An operation of one word is decoded from its first word alone (R98). -/
theorem decode_cons_of_ne_createChar {w : Word} {op : Opcode} (hop : decodeOpcode w = some op) (hne : op ≠ .createChar)
    (ws : List Word) : decode (w :: ws) = .decoded (operationOf w [] op) ws := by
  cases op with
  | createChar => exact absurd rfl hne
  | _ => simp only [decode, hop, operationOf]

/-- CREATE_CHAR's extension words: too few, one of them illegal, or its bytes (R96, R97). -/
theorem decode_cons_createChar {w : Word} (hop : decodeOpcode w = some .createChar) (ws : List Word) :
    (ws.length < (fieldB w).toNat ∧ decode (w :: ws) = .short) ∨
    (fieldB w).toNat ≤ ws.length ∧
      ((∃ e, decodeExtension (ws.take (fieldB w).toNat) = .error e ∧ decode (w :: ws) = .illegal e) ∨
       ∃ bytes, decodeExtension (ws.take (fieldB w).toNat) = .ok bytes ∧
        decode (w :: ws) = .decoded (.createChar (fieldA w) bytes) (ws.drop (fieldB w).toNat)) := by
  simp only [decode, hop]
  split
  · exact .inl ⟨‹_›, rfl⟩
  · refine .inr ⟨Nat.not_lt.mp ‹_›, ?_⟩
    split
    · exact .inl ⟨_, ‹_›, rfl⟩
    · exact .inr ⟨_, ‹_›, rfl⟩

/-- Extension words decode to bytes exactly when they are the extension words of those bytes (R96). -/
theorem decodeExtension_eq_ok_iff {ws : List Word} {bytes : List Byte} :
    decodeExtension ws = .ok bytes ↔ ws = bytes.map extensionWord where
  mp := eq_map_of_decodeExtension
  mpr h := h ▸ decodeExtension_map bytes

/-- What the decoder answers: the operation of the first word's opcode and fields with the bytes of as many extension
words as it announces, and the words after them. -/
theorem decode_cons_eq_decoded_iff {w : Word} {ws rest : List Word} {i : Instr} :
    decode (w :: ws) = .decoded i rest ↔
      ∃ op bytes, decodeOpcode w = some op ∧ i = operationOf w bytes op ∧ bytes.length = extensionCount w op ∧
        ws = bytes.map extensionWord ++ rest := by
  constructor
  · intro h
    cases hop : decodeOpcode w with
    | none => simp [decode, hop] at h
    | some op =>
      by_cases hne : op = .createChar
      · subst hne
        obtain ⟨-, hd⟩ | ⟨hlen, ⟨e, -, hd⟩ | ⟨bytes, hbytes, hd⟩⟩ := decode_cons_createChar hop ws
        · cases hd.symm.trans h
        · cases hd.symm.trans h
        · cases hd.symm.trans h
          have hmap := decodeExtension_eq_ok_iff.mp hbytes
          refine ⟨.createChar, bytes, rfl, rfl, ?_, ?_⟩
          · rw [← List.length_map (f := extensionWord), ← hmap, List.length_take, min_eq_left hlen]
            rfl
          · rw [← hmap, List.take_append_drop]
      · cases (decode_cons_of_ne_createChar hop hne ws).symm.trans h
        exact ⟨op, [], rfl, rfl, (extensionCount_of_ne hne w).symm, rfl⟩
  · rintro ⟨op, bytes, hop, rfl, hlen, rfl⟩
    by_cases hne : op = .createChar
    · subst hne
      change bytes.length = (fieldB w).toNat at hlen
      have htake : (bytes.map extensionWord ++ rest).take (fieldB w).toNat = bytes.map extensionWord :=
        List.take_left' (by rw [List.length_map, hlen])
      obtain ⟨hshort, -⟩ | ⟨-, ⟨e, he, -⟩ | ⟨bytes', hbytes, hd⟩⟩ :=
        decode_cons_createChar hop (bytes.map extensionWord ++ rest)
      · simp [hlen] at hshort
      · simp [htake] at he
      · obtain rfl : bytes = bytes' := by simpa [htake] using hbytes
        rw [hd, List.drop_left' (by rw [List.length_map, hlen])]
        rfl
    · obtain rfl : bytes = [] := List.length_eq_zero_iff.mp (hlen.trans (extensionCount_of_ne hne w))
      exact decode_cons_of_ne_createChar hop hne rest

/-! ## The round trip -/

/-- The first word of an operation's encoding. -/
def firstWord (i : Instr) : Word := packWord i.opcode.code i.fields.1 i.fields.2.1 i.fields.2.2

theorem encode_eq (i : Instr) : encode i = firstWord i :: i.extension.map extensionWord := rfl

theorem decodeOpcode_firstWord (i : Instr) : decodeOpcode (firstWord i) = some i.opcode :=
  decodeOpcode_packWord _ _ _ _ (reservedOk_fields i)

/-- The encoder's fields hold the operands that the decoder reads. -/
theorem operationOf_firstWord (i : Instr) : operationOf (firstWord i) i.extension i.opcode = i := by
  cases i with
  | send value mode => simp [operationOf, firstWord, Instr.opcode, Instr.fields, -BitVec.getLsbD_eq_getElem]
  | setBacklight v => simp [operationOf, firstWord, Instr.opcode, Instr.fields, -BitVec.getLsbD_eq_getElem]
  | setCursor _ _ | printChar _ | createChar _ _ =>
    simp [operationOf, firstWord, Instr.opcode, Instr.fields, Instr.extension]
  | _ => rfl

/-- Field `B` announces the extension words of a well-formed operation (R92). -/
theorem length_extension {i : Instr} (hwf : i.WellFormed) :
    i.extension.length = extensionCount (firstWord i) i.opcode := by
  cases i with
  | createChar location charmap =>
    have hlen : charmap.length ≤ 255 := of_decide_eq_true hwf
    change charmap.length = (fieldB (firstWord (.createChar location charmap))).toNat
    rw [firstWord, fieldB_packWord]
    exact (Nat.mod_eq_of_lt (by omega)).symm
  | _ => rfl

@[simp] theorem opcode_operationOf (w : Word) (bytes : List Byte) (op : Opcode) :
    (operationOf w bytes op).opcode = op := by
  cases op <;> rfl

@[simp] theorem bit_modeOfBit (b : Bool) : (modeOfBit b).bit = b := by cases b <;> rfl

/-- The operands of a decoded operation fill the fields they were read from: the reserved fields hold their constants
(R94). -/
theorem fields_operationOf {w : Word} {op : Opcode} {bytes : List Byte}
    (hres : op.format.reservedOk (fieldA w) (fieldB w) (fieldC w) = true)
    (hlen : bytes.length = extensionCount w op) :
    (operationOf w bytes op).fields = (fieldA w, fieldB w, fieldC w) := by
  cases op with
  | send =>
    simp only [Opcode.format, Format.reservedOk, Bool.and_eq_true, beq_iff_eq] at hres
    obtain ⟨hb, hc⟩ := hres
    simp only [operationOf, Instr.fields, bit_modeOfBit, bitField_getLsbD _ hb, hc]
  | setBacklight =>
    simp only [Opcode.format, Format.reservedOk, Bool.and_eq_true, beq_iff_eq] at hres
    obtain ⟨⟨ha, hb⟩, hc⟩ := hres
    simp only [operationOf, Instr.fields, bitField_getLsbD _ ha, hb, hc]
  | createChar =>
    simp only [Opcode.format, Format.reservedOk, beq_iff_eq] at hres
    change bytes.length = (fieldB w).toNat at hlen
    simp only [operationOf, Instr.fields, hlen, BitVec.ofNat_toNat, BitVec.setWidth_eq, hres]
  | _ =>
    simp only [Opcode.format, Format.reservedOk, Bool.and_eq_true, beq_iff_eq] at hres
    simp only [operationOf, Instr.fields, hres]

/-- Whatever words follow, the encoding of a well-formed operation decodes to it. -/
theorem decode_encode_append {i : Instr} (hwf : i.WellFormed) (rest : List Word) :
    decode (encode i ++ rest) = .decoded i rest :=
  decode_cons_eq_decoded_iff.mpr
    ⟨i.opcode, i.extension, decodeOpcode_firstWord i, (operationOf_firstWord i).symm, length_extension hwf, rfl⟩

/-- An operation's first word is the word it was decoded from. -/
theorem firstWord_operationOf {w : Word} {op : Opcode} {bytes : List Byte} (hop : decodeOpcode w = some op)
    (hlen : bytes.length = extensionCount w op) : firstWord (operationOf w bytes op) = w := by
  obtain ⟨hcode, hres⟩ := decodeOpcode_eq_some_iff.mp hop
  rw [firstWord, fields_operationOf hres hlen, opcode_operationOf, ← hcode, packWord_fields]

theorem extension_operationOf {w : Word} {op : Opcode} {bytes : List Byte}
    (hlen : bytes.length = extensionCount w op) : (operationOf w bytes op).extension = bytes := by
  cases op with
  | createChar => rfl
  | _ => exact (List.length_eq_zero_iff.mp hlen).symm

theorem wellFormed_operationOf {w : Word} {op : Opcode} {bytes : List Byte}
    (hlen : bytes.length = extensionCount w op) : (operationOf w bytes op).WellFormed := by
  cases op with
  | createChar =>
    change bytes.length = (fieldB w).toNat at hlen
    exact decide_eq_true (hlen ▸ Nat.le_of_lt_succ (fieldB w).isLt)
  | _ => rfl

/-- The first word alone tells how many words follow it (R92). -/
theorem wordLength_eq {w : Word} {op : Opcode} (hop : decodeOpcode w = some op) :
    wordLength w = 1 + extensionCount w op := by
  rw [wordLength, (decodeOpcode_eq_some_iff.mp hop).1]
  cases op <;> rfl

theorem instr_length_eq_one_add_extension (i : Instr) : i.length = 1 + i.extension.length := by
  cases i <;> rfl

end Sys2Proof.Laws
end

section
/-! SUPPORT. The rows of the opcode table as the masks of a format's reserved fields (R90, R93). -/

namespace Sys2Proof.Laws

open Sys2Proof.Machine

/-- The bits of fields `A`, `B` and `C` that a format reserves (R90, R94). -/
def reservedMask : Format → Byte × Byte × Byte
  | .Z => (0xFF, 0xFF, 0xFF)
  | .S => (0, 0xFE#8, 0xFF)
  | .XY => (0, 0, 0xFF)
  | .L => (0xFE#8, 0xFF, 0xFF)
  | .D => (0, 0xFF, 0xFF)
  | .G => (0, 0, 0xFF)
  | .E => (0xFF, 0xFF, 0)

/-- Reserved fields hold their constants exactly when every reserved bit is 0. -/
theorem reservedOk_iff (f : Format) (a b c : Byte) :
    f.reservedOk a b c = true ↔
      a &&& (reservedMask f).1 = 0 ∧ b &&& (reservedMask f).2.1 = 0 ∧ c &&& (reservedMask f).2.2 = 0 := by
  have hall (x : Byte) : x &&& 0xFF = x := BitVec.and_allOnes
  have hnone (x : Byte) : x &&& 0 = 0 := BitVec.and_zero
  cases f <;> simp only [Format.reservedOk, reservedMask, hall, hnone, Bool.and_eq_true, beq_iff_eq, true_and, and_true,
    and_assoc]

/-- A row's mask is the opcode byte and the reserved bits of its format, and its match is the opcode byte alone. -/
theorem opcodeRow_eq (op : Opcode) :
    opcodeRow op =
      (packWord 0xFF (reservedMask op.format).1 (reservedMask op.format).2.1 (reservedMask op.format).2.2,
        packWord op.code 0 0 0) := by
  cases op <;> rfl

theorem packWord_and (o a b c o' a' b' c' : Byte) :
    packWord o a b c &&& packWord o' a' b' c' = packWord (o &&& o') (a &&& a') (b &&& b') (c &&& c') := by
  change (o ++ a ++ b ++ c : BitVec (8 + 8 + 8 + 8)) &&& (o' ++ a' ++ b' ++ c') = _
  rw [BitVec.and_append, BitVec.and_append, BitVec.and_append]
  rfl

theorem packWord_inj {o a b c o' a' b' c' : Byte} :
    packWord o a b c = packWord o' a' b' c' ↔ o = o' ∧ a = a' ∧ b = b' ∧ c = c' where
  mp h := by
    refine ⟨?_, ?_, ?_, ?_⟩
    · simpa using congrArg opcField h
    · simpa using congrArg fieldA h
    · simpa using congrArg fieldB h
    · simpa using congrArg fieldC h
  mpr h := by
    obtain ⟨rfl, rfl, rfl, rfl⟩ := h
    rfl

/-- A word matches a row of the table exactly when it decodes to that row's opcode. -/
theorem matchesRow_iff {w : Word} {op : Opcode} : matchesRow w op ↔ decodeOpcode w = some op := by
  have hall (x : Byte) : x &&& 0xFF = x := BitVec.and_allOnes
  rw [matchesRow, opcodeRow_eq, ← packWord_fields w, packWord_and, packWord_inj, hall, packWord_fields,
    decodeOpcode_eq_some_iff, reservedOk_iff]

end Sys2Proof.Laws
end

section
/-! The statements about the encoding (30_encoding.md). -/

namespace Sys2Proof.Proofs

open Sys2Proof.Machine Sys2Proof.Laws

/-- Settles O6: the encoder's first word and extension words meet the equivalence that the decoder satisfies. -/
theorem decodeOfEncodeIsTheOperation : Obligations.DecodeOfEncodeIsTheOperation :=
  fun _ rest hwf => decode_encode_append hwf rest

/-- Settles O7: the fields of a decoded first word are those that the encoder writes, reserved bits included. -/
theorem decodedWordsAreTheEncoding : Obligations.DecodedWordsAreTheEncoding := by
  intro ws i rest h
  cases ws with
  | nil => cases h
  | cons w ws =>
    obtain ⟨op, bytes, hop, rfl, hlen, rfl⟩ := decode_cons_eq_decoded_iff.mp h
    refine ⟨wellFormed_operationOf hlen, ?_⟩
    rw [encode_eq, firstWord_operationOf hop hlen, extension_operationOf hlen]
    rfl

/-- Settles O8: mask and match of a row are the opcode byte and the reserved bits that the decoder checks. -/
theorem firstWordMatchesExactlyOneTableRow : Obligations.FirstWordMatchesExactlyOneTableRow := by
  refine ⟨fun w op => matchesRow_iff.symm, fun w op op' h h' => ?_⟩
  exact Option.some.inj ((matchesRow_iff.mp h).symm.trans (matchesRow_iff.mp h'))

/-- Settles O9: both lengths are one word and the extension words that the first word announces. -/
theorem firstWordTellsTheLength : Obligations.FirstWordTellsTheLength := by
  intro ws i rest w h
  refine ⟨?_, (length_of_decoded h).symm⟩
  obtain ⟨op, bytes, hop, rfl, hlen, -⟩ := decode_cons_eq_decoded_iff.mp h
  rw [wordLength_eq hop, instr_length_eq_one_add_extension, extension_operationOf hlen, hlen]

/-- Settles O10: each word, evaluated. -/
theorem sampleWordsDecode : Obligations.SampleWordsDecode := by
  unfold Obligations.SampleWordsDecode
  decide

end Sys2Proof.Proofs
end

section
/-! SUPPORT. One step by what stands at the pc (R98, R212, R215, R218), the four ways decoding can go, and the order in
which extension words are refused (R96). -/

namespace Sys2Proof.Laws

open Sys2Proof.Machine

/-! ## What stands at the pc -/

/-- The stream from the pc on begins with the word at the pc. -/
theorem drop_pc_eq_cons {s : State} {w : Word} (h : s.prog[s.pc]? = some w) :
    s.prog.drop s.pc = w :: s.prog.drop (s.pc + 1) := by
  obtain ⟨hlt, rfl⟩ := List.getElem?_eq_some_iff.mp h
  exact List.drop_eq_getElem_cons hlt

/-- No word stands at the pc exactly when the pc is at or beyond the end of the stream. -/
theorem decode_eq_noWord_iff {ws : List Word} : decode ws = .noWord ↔ ws = [] := by
  cases ws with
  | nil => simp [decode]
  | cons w ws =>
    simp only [reduceCtorEq, iff_false]
    cases hop : decodeOpcode w with
    | none => simp [decode, hop]
    | some op =>
      by_cases hne : op = .createChar
      · subst hne
        obtain ⟨-, hd⟩ | ⟨-, ⟨e, -, hd⟩ | ⟨bytes, -, hd⟩⟩ := decode_cons_createChar hop ws <;> simp [hd]
      · simp [decode_cons_of_ne_createChar hop hne]

/-- Only a CREATE_CHAR is short, and only of extension words (R97). -/
theorem decode_cons_eq_short_iff {w : Word} {ws : List Word} :
    decode (w :: ws) = .short ↔ decodeOpcode w = some .createChar ∧ ws.length < (fieldB w).toNat := by
  cases hop : decodeOpcode w with
  | none => simp [decode, hop]
  | some op =>
    by_cases hne : op = .createChar
    · subst hne
      obtain ⟨hlen, hd⟩ | ⟨hlen, ⟨e, -, hd⟩ | ⟨bytes, -, hd⟩⟩ := decode_cons_createChar hop ws
      · simp [hd, hlen]
      · simpa [hd] using hlen
      · simpa [hd] using hlen
    · simp [decode_cons_of_ne_createChar hop hne, hne]

/-- A word that is no operation is refused whatever follows it (R212). -/
theorem decode_cons_of_decodeOpcode_none {w : Word} (h : decodeOpcode w = none) (ws : List Word) :
    decode (w :: ws) = .illegal w := by
  simp only [decode, h]

/-- The format of an extension word, as one shift (R96). -/
theorem extensionOk_iff (w : Word) : extensionOk w = true ↔ w >>> 8 = 0 := by
  simp only [extensionOk, Format.reservedOk, Bool.and_eq_true, beq_iff_eq, ← BitVec.toNat_inj, opcField, fieldA, fieldB,
    BitVec.extractLsb'_toNat, BitVec.toNat_ushiftRight, BitVec.ofNat_eq_ofNat, BitVec.toNat_ofNat,
    Nat.shiftRight_eq_div_pow]
  omega

/-- The first word in order that is not of format `E` is the one refused (R96, R98). -/
theorem decodeExtension_eq_error {ws : List Word} {k : Nat} {e : Word} (he : ws[k]? = some e)
    (hbad : extensionOk e = false) (hgood : ∀ j < k, ∀ e', ws[j]? = some e' → extensionOk e' = true) :
    decodeExtension ws = .error e := by
  induction ws generalizing k with
  | nil => cases he
  | cons w ws ih =>
    cases k with
    | zero =>
      obtain rfl : w = e := by simpa using he
      simp [decodeExtension, hbad]
    | succ k =>
      have hw := hgood 0 (Nat.succ_pos k) w rfl
      have htail := ih (k := k) he fun j hj => hgood (j + 1) (Nat.succ_lt_succ hj)
      simp [decodeExtension, hw, htail]

/-! ## One step -/

theorem pc_ne_length_of_decode_ne {s : State} (h : decode (s.prog.drop s.pc) ≠ .noWord) : s.pc ≠ s.prog.length := by
  intro hpc
  exact h (decode_eq_noWord_iff.mpr (by simp [hpc]))

section
variable {s : State} (hrun : s.halted = false)
include hrun

theorem step_of_pc_eq_length (hpc : s.pc = s.prog.length) : step s = .next (endRun s) := by
  simp [step, hrun, hpc]

theorem step_of_decoded {i : Instr} {rest : List Word} (h : decode (s.prog.drop s.pc) = .decoded i rest) :
    step s = exec i s := by
  have hpc : s.pc ≠ s.prog.length := pc_ne_length_of_decode_ne (by simp [h])
  simp [step, hrun, hpc, fetch, fetchWords, h]

theorem step_of_illegal {w : Word} (h : decode (s.prog.drop s.pc) = .illegal w) :
    step s = .next (takeFault (.illegalOp w) s) := by
  have hpc : s.pc ≠ s.prog.length := pc_ne_length_of_decode_ne (by simp [h])
  simp [step, hrun, hpc, fetch, fetchWords, h, complete, Progress.settle]

theorem step_of_short (h : decode (s.prog.drop s.pc) = .short) : step s = .fault .stuckShortStream := by
  have hpc : s.pc ≠ s.prog.length := pc_ne_length_of_decode_ne (by simp [h])
  simp [step, hrun, hpc, fetch, fetchWords, h]

theorem step_of_length_lt_pc (h : s.prog.length < s.pc) : step s = .fault .pcPastEnd := by
  simp [step, hrun, h.ne', fetch, fetchWords, List.drop_eq_nil_of_le h.le, decode]

end

/-- A CREATE_CHAR short of words stands where its word announces more words than remain (R97). -/
theorem decode_drop_pc_eq_short_iff {s : State} :
    decode (s.prog.drop s.pc) = .short ↔
      ∃ w, s.prog[s.pc]? = some w ∧ matchesRow w .createChar ∧ s.pc + (fieldB w).toNat ≥ s.prog.length := by
  cases hw : s.prog[s.pc]? with
  | none => simp [List.drop_eq_nil_of_le (List.getElem?_eq_none_iff.mp hw), decode]
  | some w =>
    obtain ⟨hlt, -⟩ := List.getElem?_eq_some_iff.mp hw
    rw [drop_pc_eq_cons hw, decode_cons_eq_short_iff, List.length_drop]
    simp only [Option.some.injEq, exists_eq_left', matchesRow_iff]
    exact and_congr_right fun _ => by omega

/-- A running block without a fault that stands at such a word is stuck (R215). -/
theorem runStatus_stuck {s : State} (hrun : s.halted = false) (hf : s.faults = [])
    (h : decode (s.prog.drop s.pc) = .short) : runStatus s = .stuck := by
  obtain ⟨w, hw, -⟩ := decode_drop_pc_eq_short_iff.mp h
  obtain ⟨hlt, -⟩ := List.getElem?_eq_some_iff.mp hw
  have hfetch : fetch s = .short := h
  simp [runStatus, hrun, hf, hlt, hfetch]

theorem runStatus_completed {s : State} (hh : s.halted = true) (hf : s.faults = []) : runStatus s = .completed := by
  simp [runStatus, hh, hf]

theorem runStatus_faulted {s : State} (hf : s.faults ≠ []) : runStatus s = .faulted := if_pos hf

end Sys2Proof.Laws
end

section
/-! The statements about one step (30_encoding.md, 60_exceptions.md). -/

namespace Sys2Proof.Proofs

open Sys2Proof.Machine Sys2Proof.Laws

/-- Settles O11, by what decodes at the pc. -/
theorem stepRunsTheDecodedOperation : Obligations.StepRunsTheDecodedOperation := fun _ _ _ hrun =>
  step_of_decoded hrun

/-- Settles O12: the encoding at the pc decodes to its operation (O6). -/
theorem stepRunsTheEncodedOperation : Obligations.StepRunsTheEncodedOperation := by
  intro s i rest hrun hwf hprog
  exact step_of_decoded hrun (hprog ▸ decode_encode_append hwf rest)

/-- Settles O5: a launch stands at word 0 of a running block. -/
theorem launchStartsAtWordZero : Obligations.LaunchStartsAtWordZero := fun _ _ _ _ hdecode =>
  ⟨step_of_decoded rfl hdecode, rfl⟩

/-- Settles O13: a word that matches no row decodes to no opcode (O8). -/
theorem illegalFirstWordFaultsAndChangesNothingElse : Obligations.IllegalFirstWordFaultsAndChangesNothingElse := by
  intro s w hrun hw hrow
  have hop : decodeOpcode w = none :=
    Option.eq_none_iff_forall_ne_some.mpr fun op hop => hrow op (matchesRow_iff.mpr hop)
  exact step_of_illegal hrun (drop_pc_eq_cons hw ▸ decode_cons_of_decodeOpcode_none hop _)

/-- Settles O14: the extension words are read in order, and all before word `k` are of format `E`. -/
theorem illegalExtensionWordFaultsAndChangesNothingElse :
    Obligations.IllegalExtensionWordFaultsAndChangesNothingElse := by
  intro s w k e hrun hw hrow hlen hk he hbad hgood
  have hextension (j : Nat) (hj : j < (fieldB w).toNat) :
      ((s.prog.drop (s.pc + 1)).take (fieldB w).toNat)[j]? = s.prog[s.pc + 1 + j]? := by
    rw [List.getElem?_take_of_lt hj, List.getElem?_drop]
  have herror : decodeExtension ((s.prog.drop (s.pc + 1)).take (fieldB w).toNat) = .error e := by
    refine decodeExtension_eq_error ((hextension k hk).trans he) ?_ fun j hj e' he' => ?_
    · exact Bool.eq_false_iff.mpr (mt (extensionOk_iff e).mp hbad)
    · exact (extensionOk_iff e').mpr (hgood j hj e' (hextension j (hj.trans hk) ▸ he'))
  refine step_of_illegal hrun ?_
  rw [drop_pc_eq_cons hw]
  obtain ⟨hshort, -⟩ | ⟨-, ⟨e', he', hd⟩ | ⟨bytes, hbytes, -⟩⟩ :=
    decode_cons_createChar (matchesRow_iff.mp hrow) (s.prog.drop (s.pc + 1))
  · rw [List.length_drop] at hshort
    omega
  · cases herror.symm.trans he'
    exact hd
  · cases herror.symm.trans hbytes

/-- Settles O15: such a word decodes as short, before anything else is looked at. -/
theorem shortCreateCharIsStuck : Obligations.ShortCreateCharIsStuck := by
  intro s w hrun hf hw hrow hlen
  have hshort := decode_drop_pc_eq_short_iff.mpr ⟨w, hw, hrow, hlen⟩
  exact ⟨step_of_short hrun hshort, runStatus_stuck hrun hf hshort⟩

/-- Settles O16, by the pc and by `halted`. -/
theorem endOfStreamCompletesTheRun : Obligations.EndOfStreamCompletesTheRun :=
  ⟨fun _ hrun hf hpc => ⟨step_of_pc_eq_length hrun hpc, runStatus_completed rfl hf⟩, fun _ hh => if_pos hh⟩

/-- Settles O17: every operation answers a next state (`exec_settles`), so a step stops only where none is decoded. -/
theorem stepStopsOnlyWhereTheRunHasEndedOrIsStuck : Obligations.StepStopsOnlyWhereTheRunHasEndedOrIsStuck := by
  intro s
  cases hrun : s.halted with
  | true => exact .inr (.inl ⟨rfl, if_pos hrun⟩)
  | false =>
    obtain hlt | hpc | hgt := Nat.lt_trichotomy s.pc s.prog.length
    · cases hd : decode (s.prog.drop s.pc) with
      | decoded i rest =>
        obtain ⟨t, ht, -⟩ := exec_settles i s
        exact .inl ⟨t, (step_of_decoded hrun hd).trans ht⟩
      | illegal w => exact .inl ⟨_, step_of_illegal hrun hd⟩
      | short => exact .inr (.inr (.inl ⟨rfl, step_of_short hrun hd, decode_drop_pc_eq_short_iff.mp hd⟩))
      | noWord =>
        have hnil := decode_eq_noWord_iff.mp hd
        rw [List.drop_eq_nil_iff] at hnil
        exact absurd hlt (Nat.not_lt.mpr hnil)
    · exact .inl ⟨_, step_of_pc_eq_length hrun hpc⟩
    · exact .inr (.inr (.inr ⟨rfl, hgt, step_of_length_lt_pc hrun hgt⟩))

end Sys2Proof.Proofs
end

section
/-! SUPPORT. Runs of the machine: one step at a time, each step of a running block moving the pc on or halting it
(R98, R215). -/

namespace Sys2Proof.Laws

open Sys2Proof.Machine

theorem run_zero (s : State) : Host.Core.run Sys2Proof.core 0 s = .next s := rfl

/-- A run's first step, and the rest of the run from where it leads. -/
theorem run_succ_of_step {s t : State} (h : step s = .next t) (k : Nat) :
    Host.Core.run Sys2Proof.core (k + 1) s = Host.Core.run Sys2Proof.core k t := by
  have hstep : Sys2Proof.core.step s = .next t := h
  simp only [Host.Core.run, hstep]

theorem instr_length_pos (i : Instr) : 0 < i.length := by
  rw [instr_length_eq_one_add_extension]
  omega

/-- A step that leaves the block running has moved the pc on (R18, R98). -/
theorem pc_lt_of_step_running {s t : State} (h : step s = .next t) (hrun : t.halted = false) : s.pc < t.pc := by
  obtain ⟨-, ⟨-, rfl⟩ | ⟨w, rfl⟩ | ⟨i, rest, -, hset⟩⟩ := step_settles h
  · cases hrun
  · cases hrun
  · obtain ⟨-, -, hpc⟩ | ⟨f, -, hhalted, -⟩ := hset.ends_or_tookFault
    · have := instr_length_pos i
      omega
    · simp [hhalted] at hrun

/-- The run that stands at `t` has ended, or is stuck (R215). -/
def RunOver (t : State) : Prop :=
  (runStatus t = .completed ∧ t.halted = true) ∨ (runStatus t = .faulted ∧ t.halted = true) ∨
    (runStatus t = .stuck ∧ step t = .fault .stuckShortStream)

/-- A halted block has completed or faulted. -/
theorem runOver_of_halted {t : State} (h : t.halted = true) : RunOver t := by
  by_cases hf : t.faults = []
  · exact .inl ⟨runStatus_completed h hf, h⟩
  · exact .inr (.inl ⟨runStatus_faulted hf, h⟩)

/-- The run from `s` is over after at most `n` steps. -/
def OverWithin (n : Nat) (s : State) : Prop :=
  ∃ k t, k ≤ n ∧ Host.Core.run Sys2Proof.core k s = .next t ∧ RunOver t

theorem overWithin_of_runOver {s : State} (h : RunOver s) (n : Nat) : OverWithin n s :=
  ⟨0, s, Nat.zero_le n, run_zero s, h⟩

theorem overWithin_succ {s t : State} {n : Nat} (hstep : step s = .next t) (h : OverWithin n t) :
    OverWithin (n + 1) s := by
  obtain ⟨k, u, hk, hrun, hover⟩ := h
  exact ⟨k + 1, u, Nat.succ_le_succ hk, (run_succ_of_step hstep k).trans hrun, hover⟩

theorem OverWithin.mono {s : State} {m n : Nat} (h : OverWithin m s) (hmn : m ≤ n) : OverWithin n s := by
  obtain ⟨k, t, hk, hrun, hover⟩ := h
  exact ⟨k, t, hk.trans hmn, hrun, hover⟩

end Sys2Proof.Laws
end

section
/-! The statement about the ends of a run (60_exceptions.md). -/

namespace Sys2Proof.Proofs

open Sys2Proof.Machine Sys2Proof.Laws

/-- Settles O57, by induction on the words that remain: a step halts the block, or leaves it running with fewer words
remaining (`pc_lt_of_step_running`), and no step means stuck (O17). -/
theorem everyRunEndsInOneOfThreeWays : Obligations.EveryRunEndsInOneOfThreeWays := by
  intro s
  induction hn : s.prog.length - s.pc using Nat.strong_induction_on generalizing s with
  | _ n ih =>
    intro hs hrun
    subst hn
    obtain ⟨t, hstep⟩ | ⟨hh, -⟩ | ⟨-, hstuck, hshort⟩ | ⟨-, hpc, -⟩ := stepStopsOnlyWhereTheRunHasEndedOrIsStuck s
    · refine overWithin_succ hstep ?_
      cases ht : t.halted with
      | true => exact overWithin_of_runOver (runOver_of_halted ht) _
      | false =>
        have hinv := step_inv hs hstep
        have hpc := pc_lt_of_step_running hstep ht
        have hle := hinv.pc_in_stream
        have hlen := congrArg List.length (step_keepsFixed hstep).prog
        exact OverWithin.mono (ih _ (by omega) t rfl hinv ht) (by omega)
    · simp [hrun] at hh
    · refine overWithin_of_runOver (.inr (.inr ⟨?_, hstuck⟩)) _
      exact runStatus_stuck hrun (faults_eq_nil_of_running hs hrun) (decode_drop_pc_eq_short_iff.mpr hshort)
    · exact absurd hs.pc_in_stream (Nat.not_le.mpr hpc)

end Sys2Proof.Proofs
end

section
/-! SUPPORT. PRINT_CHAR at the pc, as one step and as the head of a text (R191, R192). -/

namespace Sys2Proof.Laws

open Sys2Proof.Machine

/-- PRINT_CHAR with its six writes answered (R191). -/
theorem exec_printChar_of_answersOk {s : State} {c0 : Byte} (hc : s.cursorCol = some c0) (hok : s.AnswersOk 6)
    (code : Byte) :
    exec (.printChar code) s = .next { s.afterEvents (sendEvents s code .data) with
      cursorCol := some (advanceCol s.cfg c0), pc := s.pc + 1 } := by
  rw [exec_printChar_of_cursorCol hc]
  exact (emit_plays code .data s).complete_ok hok _

/-- A text expands character by character, each code at most `0xFF` (R100, D29). -/
theorem printExpansion_cons_eq_some_iff {ch : Char} {text : List Char} {is : List Instr} :
    printExpansion (ch :: text) = some is ↔
      ch.toNat ≤ 0xFF ∧ ∃ tail, printExpansion text = some tail ∧ is = .printChar (BitVec.ofNat 8 ch.toNat) :: tail := by
  rw [printExpansion]
  cases printExpansion text with
  | none => simp
  | some tail => simp [eq_comm]

/-- The state after a text of `k` characters whose events are `es` (R192). -/
def afterText (k : Nat) (es : List Event) (c0 : Byte) (s : State) : State :=
  { s.afterEvents es with
    cursorCol := some (BitVec.ofNat 8 (min (c0.toNat + k) (s.cfg.cols.toNat - 1)))
    pc := s.pc + k }

/-- From a clamped column the empty text leaves everything as it was. -/
theorem afterText_zero {s : State} {c0 : Byte} (hc : s.cursorCol = some c0) (hle : c0.toNat ≤ s.cfg.cols.toNat - 1) :
    afterText 0 [] c0 s = s := by
  rw [afterText, afterEvents_nil, Nat.add_zero, min_eq_left hle, BitVec.ofNat_toNat, BitVec.setWidth_eq, ← hc]
  rfl

/-- The column advanced once and then by the rest of the text is the column advanced by the whole text. -/
theorem afterText_advanceCol (k : Nat) (es fs : List Event) (c0 : Byte) (s : State) :
    afterText k fs (advanceCol s.cfg c0)
        { s.afterEvents es with cursorCol := some (advanceCol s.cfg c0), pc := s.pc + 1 } =
      afterText (k + 1) (es ++ fs) c0 s := by
  have hcol : min ((advanceCol s.cfg c0).toNat + k) (s.cfg.cols.toNat - 1) =
      min (c0.toNat + (k + 1)) (s.cfg.cols.toNat - 1) := by
    rw [advanceCol_toNat]
    omega
  have hpc : s.pc + 1 + k = s.pc + (k + 1) := by omega
  rw [afterText, afterText, afterEvents_append, ← hcol, ← hpc]
  rfl

/-- Fewer answered writes are asked for. -/
theorem answersOk_mono {s : State} {m n : Nat} (h : s.AnswersOk n) (hle : m ≤ n) : s.AnswersOk m :=
  fun k hk => h k (hk.trans_le hle)

/-- PRINT of a text, run from where its expansion stands (R192): one step a character. -/
theorem run_printExpansion {text : List Char} {is : List Instr} {rest : List Word} {s : State} {c0 : Byte}
    (his : printExpansion text = some is) (hrun : s.halted = false)
    (hprog : s.prog.drop s.pc = is.flatMap encode ++ rest) (hc : s.cursorCol = some c0)
    (hle : c0.toNat ≤ s.cfg.cols.toNat - 1) (hok : s.AnswersOk (6 * text.length)) :
    Host.Core.run Sys2Proof.core text.length s =
      .next (afterText text.length (text.flatMap fun ch => sendEvents s (BitVec.ofNat 8 ch.toNat) .data) c0 s) := by
  induction text generalizing is s c0 with
  | nil => rw [List.flatMap_nil, List.length_nil, afterText_zero hc hle, run_zero]
  | cons ch text ih =>
    obtain ⟨-, tail, htail, rfl⟩ := printExpansion_cons_eq_some_iff.mp his
    rw [List.length_cons, Nat.mul_add, Nat.add_comm] at hok
    have hstep : step s = exec (.printChar (BitVec.ofNat 8 ch.toNat)) s := by
      refine step_of_decoded hrun (rest := tail.flatMap encode ++ rest) ?_
      rw [hprog, List.flatMap_cons, List.append_assoc]
      exact decode_encode_append rfl _
    rw [exec_printChar_of_answersOk hc (answersOk_mono hok (Nat.le_add_right ..))] at hstep
    rw [List.length_cons, run_succ_of_step hstep, List.flatMap_cons, ← afterText_advanceCol]
    refine ih htail hrun ?_ rfl ?_ (answersOk_afterEvents (es := sendEvents s _ .data) hok)
    · change s.prog.drop (s.pc + 1) = _
      rw [← List.drop_drop, hprog]
      rfl
    · rw [advanceCol_toNat]
      exact min_le_right _ _

end Sys2Proof.Laws
end

section
/-! The statements about PRINT_CHAR and PRINT (44_text_glyphs.md). -/

namespace Sys2Proof.Proofs

open Sys2Proof.Machine Sys2Proof.Laws

/-- Settles O37: PRINT_CHAR is one emit and then the clamped advance of the column. -/
theorem printCharSendsAndAdvances : Obligations.PrintCharSendsAndAdvances :=
  fun _ code _ hc hok => exec_printChar_of_answersOk hc hok code

/-- Settles O38, by induction on the text: each character is one step, which uses up six answers. -/
theorem printSendsEachCharacterAndAdvances : Obligations.PrintSendsEachCharacterAndAdvances := by
  intro s text is rest c0 r0 his hrun hprog hc hr hle hok
  rw [run_printExpansion his hrun hprog hc hle hok, ← hr]
  rfl

end Sys2Proof.Proofs
end

section
/-! SUPPORT. The status code of a state whose last fault is known (R210). -/

namespace Sys2Proof.Laws

open Sys2Proof.Machine

theorem statusCode_of_faults_nil {s : State} (h : s.faults = []) : statusCode s = 0 := by
  simp [statusCode, h]

theorem statusCode_of_faults_concat {s : State} {fs : List (Nat × RaisedFault)} {p : Nat} {f : RaisedFault}
    (h : s.faults = fs ++ [(p, f)]) : statusCode s = faultCode f := by
  simp [statusCode, h]

end Sys2Proof.Laws
end

section
/-! The statement about the status code (60_exceptions.md). -/

namespace Sys2Proof.Proofs

open Sys2Proof.Machine Sys2Proof.Laws

/-- Settles O50: each kind of step adds no fault or one, and the code is that of the last fault in the log. -/
theorem statusCodeTellsTheFaultTaken : Obligations.StatusCodeTellsTheFaultTaken := by
  refine ⟨fun s t hstep => ?_, fun p hp => ?_⟩
  · obtain ⟨-, -, rfl⟩ | ⟨-, -, w, hd, rfl⟩ | ⟨-, -, i, rest, -, hexec⟩ := step_cases hstep
    · exact .inl ⟨rfl, statusCode_of_faults_nil⟩
    · exact .inr (.inr (.inl ⟨w, rfl, statusCode_of_faults_concat (takeFault_faults _ s), hd⟩))
    · obtain ⟨hf, -⟩ | ⟨b, hf, -, -, hlast, -⟩ | ⟨name, rfl⟩ :=
        (settles_of_exec hexec).ends_or_transportFailure_or_uninitRead
      · exact .inl ⟨hf, statusCode_of_faults_nil⟩
      · exact .inr (.inl ⟨b, hf, statusCode_of_faults_concat hf, hlast⟩)
      · exact .inr (.inr (.inr ⟨name, rfl, statusCode_of_faults_concat (f := .uninitRead name) rfl⟩))
  · cases p with
    | ok s => exact statusCode_of_faults_nil (hp s rfl)
    | raised f s => exact statusCode_of_faults_concat (takeFault_faults f s)

end Sys2Proof.Proofs
end

section
/-! SUPPORT. The configuration check said once (`checkConfig_ok`, `checkConfig_error`), and construction and launch as
states of the invariant (R8, R31, R34, R216, R240). -/

namespace Sys2Proof.Laws

open Sys2Proof.Machine

/-! ## The check -/

/-- A legal row count is read as itself (R8). -/
theorem toNat_of_rowCountOf? {n : Nat} {rows : RowCount} (h : rowCountOf? n = some rows) : rows.toNat = n := by
  unfold rowCountOf? at h
  split at h <;> cases h <;> rfl

theorem rowCountOf?_eq_none {n : Nat} (h : rowCountOf? n = none) : ¬ (n = 1 ∨ n = 2 ∨ n = 4) := by
  rintro (rfl | rfl | rfl) <;> cases h

/-- A legal character size is read as itself: 1 is 5x10 dots (R8). -/
theorem charSizeOf?_eq_some {n : Nat} {charsize : CharSize} (h : charSizeOf? n = some charsize) :
    (n = 0 ∨ n = 1) ∧ (charsize = .dots5x10 ↔ n = 1) := by
  unfold charSizeOf? at h
  split at h <;> cases h <;> simp

theorem charSizeOf?_eq_none {n : Nat} (h : charSizeOf? n = none) : ¬ (n = 0 ∨ n = 1) := by
  rintro (rfl | rfl) <;> cases h

/-- A request within the bounds of R8, which R216 accepts. -/
structure LegalRequest (q : ConfigRequest) : Prop where
  rows : q.rows = 1 ∨ q.rows = 2 ∨ q.rows = 4
  cols_pos : 1 ≤ q.cols
  cols_le : q.cols ≤ 255
  addr_le : q.addr ≤ 0x7F
  charsize : q.charsize = 0 ∨ q.charsize = 1

/-- The requested parameter that a refusal names is out of its bounds (R216). -/
def Offends (q : ConfigRequest) : ConfigRefused → Prop
  | .rows => ¬ (q.rows = 1 ∨ q.rows = 2 ∨ q.rows = 4)
  | .cols => q.cols = 0 ∨ q.cols > 255
  | .addr => q.addr > 0x7F
  | .charsize => ¬ (q.charsize = 0 ∨ q.charsize = 1)

theorem LegalRequest.not_offends {q : ConfigRequest} (h : LegalRequest q) (e : ConfigRefused) : ¬ Offends q e := by
  obtain ⟨hrows, hpos, hcols, haddr, hcharsize⟩ := h
  cases e with
  | rows => exact not_not_intro hrows
  | cols => simp only [Offends]; omega
  | addr => exact Nat.not_lt.mpr haddr
  | charsize => exact not_not_intro hcharsize

/-- The configuration holds every requested value. -/
structure HoldsRequest (q : ConfigRequest) (cfg : DisplayConfig) : Prop where
  rows : cfg.rows.toNat = q.rows
  cols : cfg.cols.toNat = q.cols
  addr : cfg.addr.toNat = q.addr
  charsize : cfg.charsize = .dots5x10 ↔ q.charsize = 1
  bus : cfg.bus = q.bus
  i2cFreqMax : cfg.i2cFreqMax = q.i2cFreqMax

/-- What the check answers: a configuration that holds a legal request, or a parameter that offends (R216). -/
theorem checkConfig_cases (q : ConfigRequest) :
    (∃ cfg, checkConfig q = .ok cfg ∧ LegalRequest q ∧ HoldsRequest q cfg) ∨
    ∃ e, checkConfig q = .error e ∧ Offends q e := by
  unfold checkConfig
  cases hrows : rowCountOf? q.rows with
  | none => exact .inr ⟨.rows, rfl, rowCountOf?_eq_none hrows⟩
  | some rows =>
    have hrow := toNat_of_rowCountOf? hrows
    by_cases hcols : q.cols = 0 ∨ q.cols > 255
    · exact .inr ⟨.cols, if_pos hcols, hcols⟩
    · by_cases haddr : q.addr > 0x7F
      · exact .inr ⟨.addr, by simp [hcols, haddr], haddr⟩
      · cases hcharsize : charSizeOf? q.charsize with
        | none => exact .inr ⟨.charsize, by simp [hcols, haddr], charSizeOf?_eq_none hcharsize⟩
        | some charsize =>
          obtain ⟨hlegal, hiff⟩ := charSizeOf?_eq_some hcharsize
          simp only [if_neg hcols, if_neg haddr]
          refine .inl ⟨_, rfl, ⟨?_, ?_, ?_, ?_, hlegal⟩,
            hrow, ?_, ?_, hiff, rfl, rfl⟩
          · rw [← hrow]; cases rows <;> decide
          · omega
          · omega
          · omega
          · exact Nat.mod_eq_of_lt (by omega)
          · exact Nat.mod_eq_of_lt (by omega)

theorem checkConfig_ok {q : ConfigRequest} {cfg : DisplayConfig} (h : checkConfig q = .ok cfg) :
    LegalRequest q ∧ HoldsRequest q cfg := by
  obtain ⟨cfg', hok, hcfg⟩ | ⟨e, he, -⟩ := checkConfig_cases q
  · cases h.symm.trans hok
    exact hcfg
  · cases h.symm.trans he

theorem checkConfig_error {q : ConfigRequest} {e : ConfigRefused} (h : checkConfig q = .error e) : Offends q e := by
  obtain ⟨cfg, hok, -⟩ | ⟨e', he, hoff⟩ := checkConfig_cases q
  · cases h.symm.trans hok
  · cases h.symm.trans he
    exact hoff

/-! ## Construction -/

theorem constructBlock_eq_ok_iff {q : ConfigRequest} {params : Params} {s : State} :
    constructBlock q params = .ok s ↔ ∃ cfg, checkConfig q = .ok cfg ∧ s = State.construct cfg params := by
  unfold constructBlock
  cases checkConfig q with
  | ok cfg => simp [eq_comm]
  | error e => simp

theorem constructBlock_eq_error_iff {q : ConfigRequest} {params : Params} {e : ConfigRefused} :
    constructBlock q params = .error e ↔ checkConfig q = .error e := by
  unfold constructBlock
  cases checkConfig q <;> simp

/-- `x[FUNCTION]` at construction: bit `N` from the row count, bit `F` from the character size (R34). -/
theorem functionInit_eq_ite (rows : RowCount) (charsize : CharSize) :
    functionInit rows charsize =
      (if rows.toNat ≥ 2 then 0x08 else 0x00) ||| (if charsize = .dots5x10 then 0x04 else 0x00) := by
  cases rows <;> cases charsize <;> rfl

/-- Construction of a legal configuration on a legal pin map meets the invariant. -/
theorem construct_inv {cfg : DisplayConfig} {params : Params} (hcfg : cfg.legal) (hpins : params.pins.wf) :
    (State.construct cfg params).Inv where
  cols_pos := hcfg
  pins_wf := hpins
  row_table := rfl
  function_value := rfl
  control_hardwired := by simp [State.construct]
  mode_hardwired := by simp [State.construct]
  control_first := by simp [State.construct]
  col_clamped := by simp [State.construct]
  row_clamped := by simp [State.construct]
  cursor_pair := rfl
  pc_in_stream := Nat.zero_le _
  faulted_halts := fun h => absurd rfl h
  single_fault := Nat.zero_le _
  fault_at_pc := by simp [State.construct]
  halted_done := by simp [State.construct]
  trace_writes := by simp [State.construct]

/-- A launch starts a run in a block of the invariant: the shadow fields stay, and the run and the trace are new. -/
theorem launch_inv {s : State} (hs : s.Inv) (ws : List Word) : (launch ws s).Inv :=
  { hs with
    pc_in_stream := Nat.zero_le _
    faulted_halts := fun h => absurd rfl h
    single_fault := Nat.zero_le _
    fault_at_pc := by simp
    halted_done := by simp
    trace_writes := by simp }

theorem legal_of_holdsRequest {q : ConfigRequest} {cfg : DisplayConfig} (hq : LegalRequest q)
    (h : HoldsRequest q cfg) : cfg.legal := by
  intro hzero
  have hcols := h.cols
  rw [hzero] at hcols
  exact absurd hq.cols_pos (by simp [← hcols])

end Sys2Proof.Laws
end

section
/-! The statements about construction and reset (70_reset_and_hazards.md). -/

namespace Sys2Proof.Proofs

open Sys2Proof.Machine Sys2Proof.Laws

/-- Settles O1: the constructed state, field by field. -/
theorem constructionLeavesTheResetState : Obligations.ConstructionLeavesTheResetState := by
  intro q params cfg hcfg
  refine ⟨_, constructBlock_eq_ok_iff.mpr ⟨cfg, hcfg, rfl⟩, rfl, rfl, rfl, functionInit_eq_ite _ _, ?_⟩
  simp [State.construct]

/-- Settles O2: the check accepts a legal request and holds it, or names a parameter that offends. -/
theorem constructionRefusesExactlyIllegalConfigurations :
    Obligations.ConstructionRefusesExactlyIllegalConfigurations := by
  intro q params
  refine ⟨⟨?accepted, ?legal⟩, ?refused, ?held⟩
  case accepted =>
    rintro ⟨s, hs⟩
    obtain ⟨cfg, hcfg, -⟩ := constructBlock_eq_ok_iff.mp hs
    obtain ⟨⟨hrows, hpos, hcols, haddr, hcharsize⟩, -⟩ := checkConfig_ok hcfg
    exact ⟨hrows, hpos, hcols, haddr, hcharsize⟩
  case legal =>
    rintro ⟨hrows, hpos, hcols, haddr, hcharsize⟩
    cases hs : constructBlock q params with
    | ok s => exact ⟨s, rfl⟩
    | error e =>
      have hlegal : LegalRequest q := ⟨hrows, hpos, hcols, haddr, hcharsize⟩
      exact absurd (checkConfig_error (constructBlock_eq_error_iff.mp hs)) (hlegal.not_offends e)
  case refused =>
    intro e he
    have hoff := checkConfig_error (constructBlock_eq_error_iff.mp he)
    cases e <;> exact hoff
  case held =>
    intro s hs
    obtain ⟨cfg, hcfg, rfl⟩ := constructBlock_eq_ok_iff.mp hs
    obtain ⟨-, hrows, hcols, haddr, hcharsize, hbus, hclock⟩ := checkConfig_ok hcfg
    exact ⟨hrows, hcols, haddr, hcharsize, hbus, hclock⟩

/-- Settles O59: an accepted configuration is legal, and a launch keeps what construction fixed. -/
theorem constructedBlocksMeetTheInvariant : Obligations.ConstructedBlocksMeetTheInvariant := by
  intro q params s ws hpins hs
  obtain ⟨cfg, hcfg, rfl⟩ := constructBlock_eq_ok_iff.mp hs
  obtain ⟨hlegal, hholds⟩ := checkConfig_ok hcfg
  have hinv := construct_inv (legal_of_holdsRequest hlegal hholds) hpins
  exact ⟨hinv, launch_inv hinv ws⟩

/-- Settles O58: reset is the construction of the default configuration on the default pin map. -/
theorem resetMeetsTheInvariant : Obligations.ResetMeetsTheInvariant := construct_inv (by decide) (by decide)

end Sys2Proof.Proofs
end

section
/-! SUPPORT. The lines of the expander byte on a legal pin map, and the first write of an operation (R9, R102, R120,
R152, R252). -/

namespace Sys2Proof.Laws

open Sys2Proof.Machine

/-! ## The expander byte -/

/-- On a legal pin map no other line shares the enable line's position (R9). -/
theorem ne_en_of_wf {pins : PinMap} (h : pins.wf) :
    pins.d0 ≠ pins.en ∧ pins.d1 ≠ pins.en ∧ pins.d2 ≠ pins.en ∧ pins.d3 ≠ pins.en ∧
    pins.bl ≠ pins.en ∧ pins.rs ≠ pins.en := by
  simp only [PinMap.wf, PinMap.toList, List.nodup_cons, List.mem_cons, not_or] at h
  grind

theorem getLsbD_compose_en {pins : PinMap} (h : pins.wf) (nib : Nibble) (rs en bl : Bool) :
    (compose pins nib rs en bl).getLsbD pins.en.val = en := by
  obtain ⟨h0, h1, h2, h3, hbl, hrs⟩ := ne_en_of_wf h
  simp [getLsbD_compose, h0, h1, h2, h3, hbl, hrs, -BitVec.getLsbD_eq_getElem]

/-- On a legal pin map the register select and each nibble bit stand at their own positions (R120). -/
theorem getLsbD_compose_rs_data {pins : PinMap} (h : pins.wf) (nib : Nibble) (rs en bl : Bool) :
    (compose pins nib rs en bl).getLsbD pins.rs.val = rs ∧
    (compose pins nib rs en bl).getLsbD pins.d0.val = nib.getLsbD 0 ∧
    (compose pins nib rs en bl).getLsbD pins.d1.val = nib.getLsbD 1 ∧
    (compose pins nib rs en bl).getLsbD pins.d2.val = nib.getLsbD 2 ∧
    (compose pins nib rs en bl).getLsbD pins.d3.val = nib.getLsbD 3 := by
  simp only [PinMap.wf, PinMap.toList, List.nodup_cons, List.mem_cons, not_or] at h
  simp only [getLsbD_compose]
  grind

/-! ## The address command -/

/-- Bit 7 of the set-DDRAM-address command is its code, so bit 7 of the sum does not show (R152, D21). -/
theorem ddramCode_or_ofNat_mod (n : Nat) : 0x80#8 ||| BitVec.ofNat 8 (n % 128) = 0x80#8 ||| BitVec.ofNat 8 n := by
  refine BitVec.eq_of_getLsbD_eq fun i hi => ?_
  rw [BitVec.getLsbD_or, BitVec.getLsbD_or]
  by_cases h7 : i = 7
  · subst h7
    rfl
  · have hlow : i < 7 := by omega
    simp only [BitVec.getLsbD_ofNat, show 128 = 2 ^ 7 from rfl, Nat.testBit_mod_two_pow, hlow, decide_true,
      Bool.true_and]

/-! ## The first write of an operation -/

theorem firstWrite_append (es fs : List Event) : firstWrite (es ++ fs) = (firstWrite es).or (firstWrite fs) := by
  induction es with
  | nil => rfl
  | cons e es ih =>
    cases e with
    | write a b => rfl
    | wait t => exact ih

theorem firstWrite_of_prefix {es fs : List Event} {b : Byte} (hpre : es <+: fs) (h : firstWrite es = some b) :
    firstWrite fs = some b := by
  obtain ⟨gs, rfl⟩ := hpre
  rw [firstWrite_append, h, Option.some_or]

/-- The first write of `es` is an expander byte with the enable line 0 (R121, R252). -/
def FirstWriteLow (s : State) (es : List Event) : Prop :=
  ∀ b, firstWrite es = some b → ∃ nib rs bl, b = compose s.params.pins nib rs false bl

section
variable (s : State)

theorem firstWriteLow_nil : FirstWriteLow s [] := fun _ h => nomatch h

/-- Events that begin with those of a sent byte begin with its high nibble's first write. -/
theorem firstWriteLow_sendEvents_append (v : Byte) (mode : SendMode) (es : List Event) :
    FirstWriteLow s (sendEvents s v mode ++ es) :=
  fun _ h => ⟨_, _, _, (Option.some.inj h).symm⟩

theorem firstWriteLow_sendEvents (v : Byte) (mode : SendMode) : FirstWriteLow s (sendEvents s v mode) :=
  fun _ h => ⟨_, _, _, (Option.some.inj h).symm⟩

/-- BEGIN's first write is that of its first forcing nibble, after the power-on wait (R170, R171). -/
theorem firstWriteLow_beginEvents (fn : Byte) : FirstWriteLow s (beginEvents s fn) :=
  fun _ h => ⟨_, _, _, (Option.some.inj h).symm⟩

theorem firstWriteLow_controlEvents (bit : Byte) (set : Bool) : FirstWriteLow s (controlEvents s bit set) := by
  unfold controlEvents
  cases readControl s with
  | none => exact firstWriteLow_nil s
  | some old => exact firstWriteLow_sendEvents s _ _

theorem firstWriteLow_modeEvents (bit : Byte) (set : Bool) : FirstWriteLow s (modeEvents s bit set) := by
  unfold modeEvents
  cases readMode s with
  | none => exact firstWriteLow_nil s
  | some old => exact firstWriteLow_sendEvents s _ _

/-- The first write of every operation has the enable line 0. -/
theorem firstWriteLow_operationEvents (i : Instr) : FirstWriteLow s (operationEvents s i) := by
  cases i with
  | display | noDisplay | cursor | noCursor | blink | noBlink => exact firstWriteLow_controlEvents s _ _
  | leftToRight | rightToLeft | autoscroll | noAutoscroll => exact firstWriteLow_modeEvents s _ _
  | send _ _ | setCursor _ _ | home | clear | printChar _ | scrollDisplayLeft | scrollDisplayRight =>
    exact firstWriteLow_sendEvents s _ _
  | begin => exact firstWriteLow_beginEvents s _
  | setBacklight v => exact fun _ h => ⟨_, _, _, (Option.some.inj h).symm⟩
  | createChar location charmap =>
    rw [operationEvents, glyphEvents, List.append_assoc]
    exact firstWriteLow_sendEvents_append s _ _ _
  | getBacklight | getCursor | getFunction | getControl | getMode => exact firstWriteLow_nil s

end

end Sys2Proof.Laws
end

section
/-! The statements about the expander byte, the address command and the first write (40_emitter.md,
70_reset_and_hazards.md). -/

namespace Sys2Proof.Proofs

open Sys2Proof.Machine Sys2Proof.Laws

/-- Settles O18: every nibble and every line, evaluated. -/
theorem defaultExpanderByte : Obligations.DefaultExpanderByte := by
  unfold Obligations.DefaultExpanderByte
  decide

/-- Settles O19: at each position only its own line is set (`getLsbD_compose`). -/
theorem expanderByteCarriesEachLine : Obligations.ExpanderByteCarriesEachLine := by
  intro p nib rs en bl hwf
  obtain ⟨hrs, hdata⟩ := getLsbD_compose_rs_data hwf nib rs en bl
  exact ⟨hrs, getLsbD_compose_en hwf nib rs en bl, getLsbD_compose_bl hwf nib rs en bl,
    getLsbD_compose_rw hwf nib rs en bl, hdata⟩

/-- Settles O28: of the two readings only bit 7 could differ, and the command's code sets it in both. -/
theorem ddramCommandIsTheLowByteOfTheSum : Obligations.DdramCommandIsTheLowByteOfTheSum := by
  intro base c
  rw [ddramCmd, ddramCode_or_ofNat_mod, BitVec.ofNat_or]

/-- Settles O55: what an operation appends is a first part of its events, whose first write has the enable line 0. -/
theorem firstWriteOfAnOperationLowersEnable : Obligations.FirstWriteOfAnOperationLowersEnable := by
  intro i s t es b hwf hexec htrace hb
  obtain ⟨es', htrace', hpre⟩ := (settles_of_exec hexec).trace
  obtain rfl : es = es' := List.append_cancel_left (htrace.symm.trans htrace')
  obtain ⟨nib, rs, bl, rfl⟩ := firstWriteLow_operationEvents s i b (firstWrite_of_prefix hpre hb)
  exact getLsbD_compose_en hwf nib rs false bl

end Sys2Proof.Proofs
end

section
/-! SUPPORT. The toggles as one family, what each reads and how it repeats, and the operations that read an `UNSPEC`
field (R140, R156, R213). -/

namespace Sys2Proof.Laws

open Sys2Proof.Machine

/-! ## The toggles -/

/-- Setting or clearing a bit a second time changes nothing (R140). -/
theorem toggleBits_idem (bit : Byte) (set : Bool) (old : Byte) :
    toggleBits bit set (toggleBits bit set old) = toggleBits bit set old := by
  cases set with
  | true => simp [toggleBits, BitVec.or_assoc]
  | false => simp [toggleBits, BitVec.and_assoc]

/-- Each control toggle is `toggleControl` of one of the register's own bits (R141 to R146). -/
theorem exec_controlToggle {i : Instr}
    (hi : i ∈ [Instr.display, .noDisplay, .cursor, .noCursor, .blink, .noBlink]) :
    ∃ bit set, bit &&& controlBits = bit ∧ ∀ s, exec i s = complete (toggleControl bit set s) := by
  simp only [List.mem_cons, List.not_mem_nil, or_false] at hi
  obtain rfl | rfl | rfl | rfl | rfl | rfl := hi <;> exact ⟨_, _, by decide, fun _ => rfl⟩

/-- Each mode toggle is `toggleMode` of one of the register's own bits (R147 to R150). -/
theorem exec_modeToggle {i : Instr} (hi : i ∈ [Instr.leftToRight, .rightToLeft, .autoscroll, .noAutoscroll]) :
    ∃ bit set, bit &&& modeBits = bit ∧ ∀ s, exec i s = complete (toggleMode bit set s) := by
  simp only [List.mem_cons, List.not_mem_nil, or_false] at hi
  obtain rfl | rfl | rfl | rfl := hi <;> exact ⟨_, _, by decide, fun _ => rfl⟩

/-- What running `i` twice leaves: the registers of running it once, and the same one command byte each time (R156). -/
def RunsTwiceAsOnce (i : Instr) (s : State) : Prop :=
  ∃ t1 t2 v, exec i s = .next t1 ∧ exec i t1 = .next t2 ∧
    t2.controlReg = t1.controlReg ∧ t2.modeReg = t1.modeReg ∧
    t1.trace = s.trace ++ sendEvents s v .command ∧ t2.trace = t1.trace ++ sendEvents s v .command

/-- `t` follows `s` by the one command byte `v`, with the registers at `cr` and `mr`. -/
structure SendsCommand (v : Byte) (cr mr : Option Byte) (s t : State) : Prop where
  control : t.controlReg = cr
  mode : t.modeReg = mr
  trace : t.trace = s.trace ++ sendEvents s v .command
  params : t.params = s.params
  events : ∀ x mode, sendEvents t x mode = sendEvents s x mode

section
variable {s : State} {i : Instr} {bit old : Byte} {set : Bool} {n : Nat}

theorem controlToggle_sendsCommand (hexec : exec i s = complete (toggleControl bit set s))
    (hbit : bit &&& controlBits = bit) (hread : readControl s = some old) (hok : s.AnswersOk (6 + n)) :
    ∃ t, exec i s = .next t ∧ t.AnswersOk n ∧
      SendsCommand (s.params.codes.displayControl ||| toggleBits bit set old) (some (toggleBits bit set old))
        s.modeReg s t :=
  ⟨_, hexec.trans (complete_toggleControl_ok hread hbit (answersOk_mono hok (Nat.le_add_right 6 n))),
    answersOk_afterEvents (es := sendEvents s _ .command) hok, rfl, rfl, rfl, rfl, fun _ _ => rfl⟩

theorem modeToggle_sendsCommand (hexec : exec i s = complete (toggleMode bit set s))
    (hbit : bit &&& modeBits = bit) (hread : readMode s = some old) (hok : s.AnswersOk (6 + n)) :
    ∃ t, exec i s = .next t ∧ t.AnswersOk n ∧
      SendsCommand (s.params.codes.entryModeSet ||| toggleBits bit set old) s.controlReg
        (some (toggleBits bit set old)) s t :=
  ⟨_, hexec.trans (complete_toggleMode_ok hread hbit (answersOk_mono hok (Nat.le_add_right 6 n))),
    answersOk_afterEvents (es := sendEvents s _ .command) hok, rfl, rfl, rfl, rfl, fun _ _ => rfl⟩

/-- Two runs that send the same byte and leave the same registers. -/
theorem runsTwiceAsOnce_of_sendsCommand {t1 t2 : State} {v : Byte} {cr mr cr' mr' : Option Byte}
    (h1 : exec i s = .next t1) (h2 : exec i t1 = .next t2) (hsend1 : SendsCommand v cr mr s t1)
    (hsend2 : SendsCommand v cr' mr' t1 t2) (hcr : cr' = t1.controlReg) (hmr : mr' = t1.modeReg) :
    RunsTwiceAsOnce i s := by
  refine ⟨t1, t2, v, h1, h2, hsend2.control.trans hcr, hsend2.mode.trans hmr, hsend1.trace, ?_⟩
  rw [hsend2.trace, hsend1.events]

theorem controlToggle_runsTwiceAsOnce (hexec : ∀ u, exec i u = complete (toggleControl bit set u))
    (hbit : bit &&& controlBits = bit) (hreg : s.controlReg ≠ none) (hok : s.AnswersOk 12) : RunsTwiceAsOnce i s := by
  obtain ⟨x, hx⟩ := Option.ne_none_iff_exists'.mp hreg
  have hread : readControl s = some (x &&& controlBits) := by rw [readControl, hx, Option.map_some]
  obtain ⟨t1, h1, hok1, hsend1⟩ := controlToggle_sendsCommand (set := set) (n := 6) (hexec s) hbit hread hok
  have hread1 : readControl t1 = some (toggleBits bit set (x &&& controlBits)) := by
    rw [readControl, hsend1.control, Option.map_some, toggleBits_and_mask x _ _ _ hbit]
  obtain ⟨t2, h2, -, hsend2⟩ := controlToggle_sendsCommand (set := set) (n := 0) (hexec t1) hbit hread1 hok1
  rw [toggleBits_idem, hsend1.params] at hsend2
  exact runsTwiceAsOnce_of_sendsCommand h1 h2 hsend1 hsend2 hsend1.control.symm rfl

theorem modeToggle_runsTwiceAsOnce (hexec : ∀ u, exec i u = complete (toggleMode bit set u))
    (hbit : bit &&& modeBits = bit) (hreg : s.modeReg ≠ none) (hok : s.AnswersOk 12) : RunsTwiceAsOnce i s := by
  obtain ⟨x, hx⟩ := Option.ne_none_iff_exists'.mp hreg
  have hread : readMode s = some (x &&& modeBits) := by rw [readMode, hx, Option.map_some]
  obtain ⟨t1, h1, hok1, hsend1⟩ := modeToggle_sendsCommand (set := set) (n := 6) (hexec s) hbit hread hok
  have hread1 : readMode t1 = some (toggleBits bit set (x &&& modeBits)) := by
    rw [readMode, hsend1.mode, Option.map_some, toggleBits_and_mask x _ _ _ hbit]
  obtain ⟨t2, h2, -, hsend2⟩ := modeToggle_sendsCommand (set := set) (n := 0) (hexec t1) hbit hread1 hok1
  rw [toggleBits_idem, hsend1.params] at hsend2
  exact runsTwiceAsOnce_of_sendsCommand h1 h2 hsend1 hsend2 rfl hsend1.mode.symm

end

/-! ## Reads of an `UNSPEC` cursor -/

/-- PRINT_CHAR reads the column before its emit (R191, R213). -/
theorem exec_printChar_of_unspec {s : State} (hc : s.cursorCol = none) (code : Byte) :
    exec (.printChar code) s = .next (s.afterUninitRead .cursor) := by
  simp only [exec, execPrintChar, hc]
  rfl

/-- GET_CURSOR reads both fields (R200, R213). -/
theorem exec_getCursor_of_unspec {s : State} (h : s.cursorCol = none ∨ s.cursorRow = none) :
    exec .getCursor s = .next (s.afterUninitRead .cursor) := by
  have hbody : getCursorBody s = .raised (.uninitRead .cursor) s := by
    unfold getCursorBody
    obtain hc | hr := h
    · rw [hc]
    · rw [hr]
      cases s.cursorCol <;> rfl
  change complete (getCursorBody s) = _
  rw [hbody]
  rfl

/-- CREATE_CHAR with the restore reads both fields before its first write (R193, R213). -/
theorem exec_createChar_of_unspec {s : State} (hres : s.params.createCharRestores = true)
    (h : s.cursorCol = none ∨ s.cursorRow = none) (location : Byte) (charmap : List Byte) :
    exec (.createChar location charmap) s = .next (s.afterUninitRead .cursor) := by
  have hbody : createCharBody location charmap s = .raised (.uninitRead .cursor) s := by
    rw [createCharBody, if_pos hres]
    obtain hc | hr := h
    · rw [hc]
    · rw [hr]
      cases s.cursorCol <;> rfl
  change complete ((createCharBody location charmap s).andThen _) = _
  rw [hbody]
  rfl

end Sys2Proof.Laws
end

section
/-! The statements about the toggles and the reads of `UNSPEC` fields (41_register_state.md, 60_exceptions.md). -/

namespace Sys2Proof.Proofs

open Sys2Proof.Machine Sys2Proof.Laws

/-- Settles O25: each of these operations begins with its read. -/
theorem unspecifiedReadFaultsBeforeAnyEffect : Obligations.UnspecifiedReadFaultsBeforeAnyEffect := by
  rintro s i name (⟨hi, rfl, hreg⟩ | ⟨hi, rfl, hreg⟩ | ⟨⟨code, rfl⟩, rfl, hc⟩ | ⟨rfl, rfl, hcursor⟩ |
    ⟨⟨location, charmap, rfl⟩, rfl, hres, hcursor⟩)
  · obtain hi | hi := List.mem_append.mp
      (show i ∈ [Instr.display, .noDisplay, .cursor, .noCursor, .blink, .noBlink] ++ [.getControl] from hi)
    · obtain ⟨bit, set, -, hexec⟩ := exec_controlToggle hi
      rw [hexec, complete_toggleControl_uninit hreg]
    · rw [List.mem_singleton.mp hi, exec_getControl_of_unspec hreg]
  · obtain hi | hi := List.mem_append.mp
      (show i ∈ [Instr.leftToRight, .rightToLeft, .autoscroll, .noAutoscroll] ++ [.getMode] from hi)
    · obtain ⟨bit, set, -, hexec⟩ := exec_modeToggle hi
      rw [hexec, complete_toggleMode_uninit hreg]
    · rw [List.mem_singleton.mp hi, exec_getMode_of_unspec hreg]
  · exact exec_printChar_of_unspec hc code
  · exact exec_getCursor_of_unspec hcursor
  · exact exec_createChar_of_unspec hres hcursor location charmap

/-- Settles O26: the second run finds the value that the first one left, and setting or clearing the bit again changes
nothing (`toggleBits_idem`). -/
theorem togglesAreIdempotent : Obligations.TogglesAreIdempotent := by
  rintro i s (⟨hi, hreg⟩ | ⟨hi, hreg⟩) - hok
  · obtain ⟨bit, set, hbit, hexec⟩ := exec_controlToggle hi
    exact controlToggle_runsTwiceAsOnce hexec hbit hreg hok
  · obtain ⟨bit, set, hbit, hexec⟩ := exec_modeToggle hi
    exact modeToggle_runsTwiceAsOnce hexec hbit hreg hok

end Sys2Proof.Proofs
end

section
/-! SUPPORT. A BEGIN that ends without a fault, and what its events depend on (R170, R173, R174). -/

namespace Sys2Proof.Laws

open Sys2Proof.Machine

/-- What a BEGIN without a fault leaves: its events, the two registers, the cursor at the origin and the pc advanced. -/
def afterBegin (s : State) : State :=
  { s.afterEvents (beginEvents s (readFunction s)) with
    controlReg := some 0x04#8, modeReg := some 0x02#8, cursorCol := some 0#8, cursorRow := some 0#8, pc := s.pc + 1 }

@[simp] theorem afterBegin_functionReg (s : State) : (afterBegin s).functionReg = s.functionReg := by
  rw [afterBegin, afterEvents_functionReg]

@[simp] theorem afterBegin_backlight (s : State) : (afterBegin s).backlight = s.backlight := by
  rw [afterBegin, afterEvents_backlight]

theorem afterBegin_trace (s : State) : (afterBegin s).trace = s.trace ++ beginEvents s (readFunction s) := rfl

/-- With its 36 writes answered, BEGIN comes to its end. -/
theorem exec_begin_of_answersOk {s : State} (hok : s.AnswersOk 36) : exec .begin s = .next (afterBegin s) := by
  obtain ⟨-, hbody⟩ | ⟨j, b, hj, -, hfail, -⟩ := beginBody_cases s
  · change complete ((beginBody s).andThen (finish 1)) = _
    rw [hbody]
    rfl
  · rw [hok j hj] at hfail
    cases hfail

/-- Without a new fault, BEGIN has come to its end. -/
theorem eq_afterBegin_of_faults_eq {s t : State} (hexec : exec .begin s = .next t) (hf : t.faults = s.faults) :
    t = afterBegin s := by
  cases settles_of_exec hexec with
  | began hi => rfl
  | uninit name hi => exact absurd rfl hi
  | query v hi => exact absurd hi (by decide)
  | ended u k hu hk hi => exact absurd (List.mem_cons_self ..) hi
  | failed u j b hu hj hl hi => exact absurd (List.mem_cons_self ..) hi
  | beginFailed j b hi hj hl => simp [State.afterFailedWrite] at hf

/-- BEGIN's events depend on the configuration, the parameters and the backlight alone (R173). -/
theorem beginEvents_congr {s s' : State} (hcfg : s.cfg = s'.cfg) (hparams : s.params = s'.params)
    (hlight : s.backlight = s'.backlight) (fn : Byte) : beginEvents s fn = beginEvents s' fn := by
  simp only [beginEvents, sendEvents, nibbleEvents, hcfg, hparams, hlight]

/-- BEGIN's events begin with the power-on wait and end with the long settle of its clear command (R174). -/
theorem beginEvents_ends (s : State) (fn : Byte) :
    (beginEvents s fn).head? = some (.wait s.params.timing.tPowerOn) ∧
      (beginEvents s fn).getLast? = some (.wait s.params.timing.tExecLong) := by
  refine ⟨rfl, ?_⟩
  rw [beginEvents, List.getLast?_append, getLast?_sendEvents, Option.some_or]
  rfl

end Sys2Proof.Laws
end

section
/-! The statements about BEGIN (42_initialization.md). -/

namespace Sys2Proof.Proofs

open Sys2Proof.Machine Sys2Proof.Laws

/-- Settles O30: the construction value of the function register reads as itself. -/
theorem beginInitializesTheControllerAndTheShadow : Obligations.BeginInitializesTheControllerAndTheShadow := by
  intro s hfun hok
  rw [exec_begin_of_answersOk hok, afterBegin, readFunction_of_functionInit hfun]

/-- Settles O31: a BEGIN without a fault has appended its events whole. -/
theorem beginEventCounts : Obligations.BeginEventCounts := by
  intro s t es hexec hf htrace
  rw [eq_afterBegin_of_faults_eq hexec hf] at htrace
  obtain rfl : es = beginEvents s (readFunction s) := (List.append_cancel_left htrace).symm
  exact ⟨rfl, rfl, beginEvents_ends s _⟩

/-- Settles O33: of the state before, BEGIN's events read what the two blocks agree on, and the function register holds
the construction value of the same configuration. -/
theorem beginForgetsTheStateBeforeIt : Obligations.BeginForgetsTheStateBeforeIt := by
  intro s s' t t' hcfg hparams hlight hfun hfun' hexec hexec' hf hf'
  have hreg : s.functionReg = s'.functionReg := by rw [hfun, hfun', hcfg]
  have hread : readFunction s = readFunction s' := by rw [readFunction, readFunction, hreg]
  rw [eq_afterBegin_of_faults_eq hexec hf, eq_afterBegin_of_faults_eq hexec' hf']
  refine ⟨⟨beginEvents s (readFunction s), afterBegin_trace s, ?_⟩, ?_, rfl, rfl, rfl, rfl, ?_⟩
  · rw [hread, beginEvents_congr hcfg hparams hlight, afterBegin_trace]
  · rw [afterBegin_functionReg, afterBegin_functionReg, hreg]
  · rw [afterBegin_backlight, afterBegin_backlight, hlight]

end Sys2Proof.Proofs
end

section
/-! The statements about SET_BACKLIGHT and CREATE_CHAR with the restore (43_backlight.md, 44_text_glyphs.md). -/

namespace Sys2Proof.Proofs

open Sys2Proof.Machine Sys2Proof.Laws

/-- Settles O34: one write of the byte that carries the new backlight. -/
theorem setBacklightWritesOneByte : Obligations.SetBacklightWritesOneByte :=
  fun _ v hok => exec_setBacklight_of_answersOk hok v

/-- Settles O40: with the restore CREATE_CHAR plays the glyph's events and the address command of the cursor. -/
theorem createCharWithRestoreEndsWithTheCursorAddress :
    Obligations.CreateCharWithRestoreEndsWithTheCursorAddress := by
  intro s location charmap c r hres htable hc hr hrow hok
  have hplays := createCharBody_plays_restore hres hc hr location charmap
  rw [ddramCmd_rowBase htable hrow] at hplays
  rw [Nat.add_assoc]
  refine hplays.complete_ok ?_ (finish (1 + charmap.length))
  rw [writeCount_append, writeCount_glyphEvents, writeCount_sendEvents]
  exact answersOk_mono hok (by omega)

end Sys2Proof.Proofs
end

section
/-! SUPPORT. Numerals: the digits of a number in a base are read as it, in either case of a letter (R99). -/

namespace Sys2Proof.Laws

open Sys2Proof.Machine

theorem toUpper_toUpper (c : Char) : c.toUpper.toUpper = c.toUpper := by
  by_cases h : 'a'.val ≤ c.val ∧ c.val ≤ 'z'.val
  · have hval : c.toUpper.val = c.val + ('A'.val - 'a'.val) := by rw [Char.toUpper, dif_pos h]
    have hcap : ¬ ('a'.val ≤ c.toUpper.val ∧ c.toUpper.val ≤ 'z'.val) := by
      rw [hval]
      simp only [UInt32.le_iff_toNat_le, UInt32.toNat_add] at h ⊢
      have ha : 'a'.val.toNat = 97 := rfl
      have hz : 'z'.val.toNat = 122 := rfl
      have hshift : ('A'.val - 'a'.val).toNat = 2 ^ 32 - 32 := rfl
      omega
    conv_lhs => rw [Char.toUpper, dif_neg hcap]
  · have hsame : c.toUpper = c := by rw [Char.toUpper, dif_neg h]
    rw [hsame, hsame]

/-- A letter is the same digit in either case (log 16). -/
theorem digitIn_toUpper (base : Nat) (c : Char) : digitIn base c.toUpper = digitIn base c := by
  rw [digitIn, digitIn, toUpper_toUpper]

theorem positional_map_toUpper (base : Nat) (cs : List Char) :
    positional base (cs.map Char.toUpper) = positional base cs := by
  simp only [positional, List.foldlM_map, digitIn_toUpper]

/-- The digits of a number spell it, in every base whose digits have their values. -/
theorem positional_toDigits {base : Nat} (hbase : 1 < base)
    (hdigit : ∀ d < base, digitIn base (Nat.digitChar d) = some d) (n : Nat) :
    positional base (Nat.toDigits base n) = some n := by
  induction n using Nat.strong_induction_on with
  | _ n ih =>
    by_cases hn : n < base
    · rw [Nat.toDigits_of_lt_base hn, ← List.nil_append [_], positional_concat, hdigit n hn]
      simp [positional]
    · have hle : base ≤ n := Nat.not_lt.mp hn
      have hdiv : n / base < n := Nat.div_lt_self (by omega) hbase
      rw [Nat.toDigits_of_base_le hbase hle, positional_concat, ih _ hdiv, hdigit _ (Nat.mod_lt n (by omega))]
      simp [Nat.div_add_mod']

/-- Characters without an `x` among them are read as a decimal numeral. -/
theorem numberValue_eq_decimal {cs : List Char} (hne : cs ≠ []) (hx : 'x' ∉ cs) : numberValue cs = positional 10 cs := by
  unfold numberValue
  split
  · exact absurd rfl hne
  · simp at hx
  · simp at hx
  · rfl

/-- After `0x` characters are read as a hexadecimal numeral. -/
theorem numberValue_eq_hexadecimal {cs : List Char} (hne : cs ≠ []) :
    numberValue ('0' :: 'x' :: cs) = positional 16 cs := by
  cases cs with
  | nil => exact absurd rfl hne
  | cons c cs => rfl

theorem numberValue_toDigits_ten (n : Nat) : numberValue (Nat.toDigits 10 n) = some n := by
  have hx : 'x' ∉ Nat.toDigits 10 n := fun hmem => by
    have := Nat.isDigit_of_mem_toDigits (by decide) (by decide) hmem
    simp at this
  rw [numberValue_eq_decimal Nat.toDigits_ne_nil hx]
  exact positional_toDigits (by decide) (fun _ => digitIn_ten) n

theorem numberValue_hexadecimal {cs : List Char} {n : Nat}
    (h : cs.map Char.toUpper = (Nat.toDigits 16 n).map Char.toUpper) : numberValue ('0' :: 'x' :: cs) = some n := by
  have hne : cs ≠ [] := by
    rintro rfl
    exact Nat.toDigits_ne_nil (List.map_eq_nil_iff.mp h.symm)
  rw [numberValue_eq_hexadecimal hne, ← positional_map_toUpper, h, positional_map_toUpper]
  exact positional_toDigits (by decide) (fun _ => digitIn_sixteen) n

end Sys2Proof.Laws
end

section
/-! The statement about numerals (30_encoding.md). -/

namespace Sys2Proof.Proofs

open Sys2Proof.Machine Sys2Proof.Laws

/-- Settles O48, by induction on the digits (`positional_toDigits`); the case of a letter does not change its digit. -/
theorem numbersAreReadInBothBases : Obligations.NumbersAreReadInBothBases := by
  intro n
  refine ⟨numberValue_toDigits_ten n, numberValue_hexadecimal ?_, fun cs => numberValue_hexadecimal⟩
  rw [List.map_map]
  exact List.map_congr_left fun c _ => toUpper_toUpper c

end Sys2Proof.Proofs
end

section
/-! SUPPORT. Lines of assembly: their tokens, what each operand form accepts and refuses, and how a line is read past
its quoted texts (R99, R100, log 16). -/

namespace Sys2Proof.Laws

open Sys2Proof.Machine

/-! ## Lines and tokens -/

theorem assembleLine_eq_bind (line : String) : assembleLine line = (lexLine .between line.toList).bind parseLine := by
  unfold assembleLine
  cases lexLine .between line.toList <;> rfl

@[simp] theorem lexLine_quote (cs : List Char) : lexLine .between ('"' :: cs) = lexLine (.inText []) cs := by
  simp [lexLine]
  cases lexLine (.inText []) cs <;> rfl

/-- A word that ends its line. -/
theorem lexLine_word_alone {cs : List Char} (hne : cs ≠ []) (h : ∀ c ∈ cs, isWordChar c = true) :
    lexLine .between cs = some [.word cs] := by
  have hword := lexLine_word (rest := []) hne h
  rw [List.append_nil] at hword
  simp [hword]

/-- A word with a space after it. -/
theorem lexLine_word_then_space {cs : List Char} (hne : cs ≠ []) (h : ∀ c ∈ cs, isWordChar c = true)
    (rest : List Char) : lexLine .between (cs ++ ' ' :: rest) = (lexLine .between rest).map (.word cs :: ·) := by
  simp [lexLine_word hne h]

/-- A word with a comma and a space after it. -/
theorem lexLine_word_then_comma {cs : List Char} (hne : cs ≠ []) (h : ∀ c ∈ cs, isWordChar c = true)
    (rest : List Char) :
    lexLine .between (cs ++ ',' :: ' ' :: rest) = (lexLine .between rest).map (.word cs :: .comma :: ·) := by
  simp [lexLine_word hne h]

/-- A mnemonic is a word. -/
theorem mnemonicText_wordChars (op : Opcode) :
    (mnemonicText op).toList ≠ [] ∧ ∀ c ∈ (mnemonicText op).toList, isWordChar c = true := by
  refine ⟨?_, List.all_eq_true.mp ?_⟩ <;> cases op <;> decide

@[simp] theorem opcodeOfText_mnemonicText (op : Opcode) : opcodeOfText (mnemonicText op).toList = some op := by
  cases op <;> decide

/-- A line's operation is the one that its mnemonic's operand form gives. -/
theorem parseLine_mnemonic (op : Opcode) (ts : List Token) :
    parseLine (.word (mnemonicText op).toList :: ts) = (operandForm op ts).map fun i => [i] := by
  simp [parseLine]

/-- A line of a mnemonic alone. -/
theorem assembleLine_mnemonic_alone {op : Opcode} {i : Instr} (h : nullaryInstr op = some i) :
    assembleLine (mnemonicText op) = some [i] := by
  obtain ⟨hne, hword⟩ := mnemonicText_wordChars op
  have hform : operandForm op [] = some i := by
    cases op <;> exact h
  rw [assembleLine_eq_bind, lexLine_word_alone hne hword, Option.bind_some, parseLine_mnemonic, hform]
  rfl

/-- The name is the mnemonic of an operation without operands. -/
def spellsNullary (row : String × Instr) : Bool :=
  mnemonicText row.2.opcode == row.1 && nullaryInstr row.2.opcode == some row.2

theorem assembleLine_of_spellsNullary {name : String} {i : Instr} (h : spellsNullary (name, i) = true) :
    assembleLine name = some [i] := by
  simp only [spellsNullary, Bool.and_eq_true, beq_iff_eq] at h
  obtain ⟨rfl, hnullary⟩ := h
  exact assembleLine_mnemonic_alone hnullary

/-- A line of a mnemonic and operands. -/
theorem assembleLine_mnemonic {op : Opcode} {line : String} {cs : List Char} {ts : List Token} {i : Instr}
    (hline : line.toList = (mnemonicText op).toList ++ ' ' :: cs) (hlex : lexLine .between cs = some ts)
    (hform : operandForm op ts = some i) : assembleLine line = some [i] := by
  obtain ⟨hne, hword⟩ := mnemonicText_wordChars op
  rw [assembleLine_eq_bind, hline, lexLine_word_then_space hne hword, hlex, Option.map_some, Option.bind_some,
    parseLine_mnemonic, hform]
  rfl

/-! ## Operands -/

theorem byteOperand_of_numberValue {cs : List Char} {n : Nat} (h : numberValue cs = some n) :
    byteOperand cs = if n ≤ 255 then some (BitVec.ofNat 8 n) else none := by
  rw [byteOperand, h]

theorem bitOperand_of_numberValue {cs : List Char} {n : Nat} (h : numberValue cs = some n) :
    bitOperand cs = if n = 0 then some false else if n = 1 then some true else none := by
  rw [bitOperand, h]
  match n with
  | 0 => rfl
  | 1 => rfl
  | n + 2 => simp

/-- A word read as a byte spells no number above 255 (R99). -/
theorem le_of_byteOperand {cs : List Char} {b : Byte} (hb : byteOperand cs = some b) {n : Nat}
    (hn : numberValue cs = some n) : n ≤ 255 := by
  by_contra hgt
  rw [byteOperand_of_numberValue hn, if_neg hgt] at hb
  cases hb

/-- A word read as a bit spells no number above 1 (R99). -/
theorem le_of_bitOperand {cs : List Char} {v : Bool} (hv : bitOperand cs = some v) {n : Nat}
    (hn : numberValue cs = some n) : n ≤ 1 := by
  by_contra hgt
  rw [bitOperand_of_numberValue hn, if_neg (by omega), if_neg (by omega)] at hv
  cases hv

/-- `CMD` and `DATA` spell no number. -/
theorem numberValue_of_modeOperand {cs : List Char} {m : SendMode} (h : modeOperand cs = some m) :
    numberValue cs = none := by
  unfold modeOperand at h
  split at h
  · subst cs; decide
  · split at h
    · subst cs; decide
    · cases h

/-- Every entry of a charmap that is read is read as a byte. -/
theorem byteOperand_of_mem_charmapTail {ts : List Token} {bs : List Byte} (h : charmapTail ts = some bs)
    {w : List Char} (hw : .word w ∈ ts) : ∃ b, byteOperand w = some b := by
  fun_induction charmapTail ts generalizing bs with
  | case1 w' =>
    obtain ⟨b, hb, -⟩ := Option.map_eq_some_iff.mp h
    obtain rfl : w = w' := by simpa using hw
    exact ⟨b, hb⟩
  | case2 w' ts b bs' hbs' hb ih =>
    obtain rfl | hw : w = w' ∨ .word w ∈ ts := by simpa using hw
    · exact ⟨b, hb⟩
    · exact ih hbs' hw
  | case3 | case4 | case5 => cases h

theorem byteOperand_of_mem_charmapOperand {ts : List Token} {bs : List Byte} (h : charmapOperand ts = some bs)
    {w : List Char} (hw : .word w ∈ ts) : ∃ b, byteOperand w = some b := by
  unfold charmapOperand at h
  split at h
  · simp at hw
  · exact byteOperand_of_mem_charmapTail h hw

/-- A charmap has as many bytes as entries. -/
theorem length_of_charmapOperand {ws : List (List Char)} {bs : List Byte}
    (h : charmapOperand ((ws.map Token.word).intersperse .comma ++ [.closeBracket]) = some bs) :
    bs.length = ws.length := by
  cases ws with
  | nil => cases h; rfl
  | cons w ws =>
    refine charmapTail_length (h ▸ ?_)
    unfold charmapOperand
    split
    · rename_i he
      cases ws <;> simp at he
    · rfl

/-- What each operand form accepts (R99). -/
theorem operandForm_cases {op : Opcode} {ts : List Token} {i : Instr} (h : operandForm op ts = some i) :
    (∃ v m b mode, op = .send ∧ ts = [.word v, .comma, .word m] ∧ byteOperand v = some b ∧
      modeOperand m = some mode ∧ i = .send b mode) ∨
    (∃ c r bc br, op = .setCursor ∧ ts = [.word c, .comma, .word r] ∧ byteOperand c = some bc ∧
      byteOperand r = some br ∧ i = .setCursor bc br) ∨
    (∃ v bit, op = .setBacklight ∧ ts = [.word v] ∧ bitOperand v = some bit ∧ i = .setBacklight bit) ∨
    (∃ c b, op = .printChar ∧ ts = [.word c] ∧ byteOperand c = some b ∧ i = .printChar b) ∨
    (∃ l es b bs, op = .createChar ∧ ts = .word l :: .comma :: .openBracket :: es ∧ byteOperand l = some b ∧
      charmapOperand es = some bs ∧ bs.length ≤ 255 ∧ i = .createChar b bs) ∨
    (ts = [] ∧ nullaryInstr op = some i) := by
  unfold operandForm at h
  split at h
  · split at h
    · cases h; exact .inl ⟨_, _, _, _, rfl, rfl, ‹_›, ‹_›, rfl⟩
    · cases h
    · cases h
  · split at h
    · cases h; exact .inr (.inl ⟨_, _, _, _, rfl, rfl, ‹_›, ‹_›, rfl⟩)
    · cases h
    · cases h
  · obtain ⟨bit, hbit, rfl⟩ := Option.map_eq_some_iff.mp h
    exact .inr (.inr (.inl ⟨_, _, rfl, rfl, hbit, rfl⟩))
  · obtain ⟨b, hb, rfl⟩ := Option.map_eq_some_iff.mp h
    exact .inr (.inr (.inr (.inl ⟨_, _, rfl, rfl, hb, rfl⟩)))
  · split at h
    · split at h
      · cases h; exact .inr (.inr (.inr (.inr (.inl ⟨_, _, _, _, rfl, rfl, ‹_›, ‹_›, ‹_›, rfl⟩))))
      · cases h
    · cases h
    · cases h
  · exact .inr (.inr (.inr (.inr (.inr ⟨rfl, h⟩))))
  · cases h

/-- A number in an operand that a mnemonic accepts is at most 255 (R99). -/
theorem le_of_operandForm {op : Opcode} {ts : List Token} {i : Instr} (h : operandForm op ts = some i)
    {w : List Char} (hw : .word w ∈ ts) {n : Nat} (hn : numberValue w = some n) : n ≤ 255 := by
  obtain ⟨v, m, b, mode, -, rfl, hb, hm, -⟩ | ⟨c, r, bc, br, -, rfl, hc, hr, -⟩ | ⟨v, bit, -, rfl, hv, -⟩ |
    ⟨c, b, -, rfl, hb, -⟩ | ⟨l, es, b, bs, -, rfl, hl, hes, -, -⟩ | ⟨rfl, -⟩ := operandForm_cases h
  · obtain rfl | rfl : w = v ∨ w = m := by simpa using hw
    · exact le_of_byteOperand hb hn
    · cases (numberValue_of_modeOperand hm).symm.trans hn
  · obtain rfl | rfl : w = c ∨ w = r := by simpa using hw
    · exact le_of_byteOperand hc hn
    · exact le_of_byteOperand hr hn
  · obtain rfl : w = v := by simpa using hw
    exact (le_of_bitOperand hv hn).trans (by decide)
  · obtain rfl : w = c := by simpa using hw
    exact le_of_byteOperand hb hn
  · obtain rfl | hw : w = l ∨ .word w ∈ es := by simpa using hw
    · exact le_of_byteOperand hl hn
    · obtain ⟨b', hb'⟩ := byteOperand_of_mem_charmapOperand hes hw
      exact le_of_byteOperand hb' hn
  · simp at hw

theorem wellFormed_of_nullaryInstr {op : Opcode} {i : Instr} (h : nullaryInstr op = some i) : i.WellFormed := by
  cases op <;> cases h <;> rfl

/-- An operand form accepts only operations that have an encoding. -/
theorem wellFormed_of_operandForm {op : Opcode} {ts : List Token} {i : Instr} (h : operandForm op ts = some i) :
    i.WellFormed := by
  obtain ⟨_, _, _, _, -, -, -, -, rfl⟩ | ⟨_, _, _, _, -, -, -, -, rfl⟩ | ⟨_, _, -, -, -, rfl⟩ | ⟨_, _, -, -, -, rfl⟩ |
    ⟨_, _, _, _, -, -, -, -, hlen, rfl⟩ | ⟨-, hi⟩ := operandForm_cases h
  · rfl
  · rfl
  · rfl
  · rfl
  · exact decide_eq_true hlen
  · exact wellFormed_of_nullaryInstr hi

/-! ## The pseudo-instructions -/

/-- A text expands exactly when every code is at most `0xFF`, to one PRINT_CHAR a character (R100, D29). -/
theorem printExpansion_eq_some_iff {text : List Char} {is : List Instr} :
    printExpansion text = some is ↔
      (∀ ch ∈ text, ch.toNat ≤ 0xFF) ∧ is = text.map fun ch => .printChar (BitVec.ofNat 8 ch.toNat) := by
  induction text generalizing is with
  | nil => simp [printExpansion, eq_comm]
  | cons ch text ih =>
    rw [printExpansion_cons_eq_some_iff]
    simp only [ih, List.forall_mem_cons, List.map_cons]
    constructor
    · rintro ⟨hch, tail, ⟨htext, rfl⟩, rfl⟩
      exact ⟨⟨hch, htext⟩, rfl⟩
    · rintro ⟨⟨hch, htext⟩, rfl⟩
      exact ⟨hch, _, ⟨htext, rfl⟩, rfl⟩

/-- What a line that begins with a word can be. -/
theorem parseLine_word_cases {m : List Char} {ts : List Token} {is : List Instr}
    (h : parseLine (.word m :: ts) = some is) :
    (∃ op i, operandForm op ts = some i ∧ is = [i]) ∨ (ts = [] ∧ pseudoExpansion m = some is) ∨
    (∃ cs, ts = [.text cs] ∧ printExpansion cs = some is) := by
  simp only [parseLine] at h
  split at h
  · obtain ⟨i, hi, rfl⟩ := Option.map_eq_some_iff.mp h
    exact .inl ⟨_, i, hi, rfl⟩
  · exact .inr (.inl ⟨rfl, h⟩)
  · split at h
    · exact .inr (.inr ⟨_, rfl, h⟩)
    · cases h
  · cases h

theorem wellFormed_of_pseudoExpansion {m : List Char} {is : List Instr} (h : pseudoExpansion m = some is) :
    ∀ i ∈ is, i.WellFormed := by
  unfold pseudoExpansion at h
  split_ifs at h <;> cases h <;> simp [Instr.WellFormed, Instr.wellFormed]

/-- Whatever a line stands for has an encoding. -/
theorem wellFormed_of_parseLine {ts : List Token} {is : List Instr} (h : parseLine ts = some is) :
    ∀ i ∈ is, i.WellFormed := by
  cases ts with
  | nil => cases h; simp
  | cons t ts =>
    cases t with
    | word m =>
      obtain ⟨op, i, hi, rfl⟩ | ⟨-, hpseudo⟩ | ⟨cs, -, hprint⟩ := parseLine_word_cases h
      · simpa using wellFormed_of_operandForm hi
      · exact wellFormed_of_pseudoExpansion hpseudo
      · obtain ⟨-, rfl⟩ := printExpansion_eq_some_iff.mp hprint
        simp [Instr.WellFormed, Instr.wellFormed]
    | comma | openBracket | closeBracket | text cs => cases h

/-- A number in a line that is accepted is at most 255. -/
theorem le_of_parseLine {m : List Char} {ts : List Token} {is : List Instr} (h : parseLine (.word m :: ts) = some is)
    {w : List Char} (hw : .word w ∈ ts) {n : Nat} (hn : numberValue w = some n) : n ≤ 255 := by
  obtain ⟨op, i, hi, -⟩ | ⟨rfl, -⟩ | ⟨cs, rfl, -⟩ := parseLine_word_cases h
  · exact le_of_operandForm hi hw hn
  · simp at hw
  · simp at hw

/-- A PRINT line whose text holds no double quote has two tokens: the word and that text (R100). -/
theorem assembleLine_print {text : String} (h : '"' ∉ text.toList) :
    assembleLine ("PRINT \"" ++ text ++ "\"") = printExpansion text.toList := by
  have hline : ("PRINT \"" ++ text ++ "\"").toList = "PRINT".toList ++ ' ' :: '"' :: (text.toList ++ ['"']) := by simp
  have hword : ∀ c ∈ "PRINT".toList, isWordChar c = true := List.all_eq_true.mp (by decide)
  have hop : opcodeOfText "PRINT".toList = none := by decide
  rw [assembleLine_eq_bind, hline, lexLine_word_then_space (by decide) hword, lexLine_quote, lexLine_text h]
  simp only [lexLine_end, Option.map_some, Option.bind_some, parseLine, hop, if_true, List.reverse_nil, List.nil_append]

/-! ## Reading past quoted texts -/

/-- The lexer is not inside a quoted text. -/
def Outside : LexMode → Prop
  | .inText _ => False
  | .between | .inWord _ => True

/-- From `m` the lexer reads `cs` and stands outside a text again, with tokens that do not depend on what follows; or it
refuses `cs` whatever follows. -/
def ReadsPast (m : LexMode) (cs : List Char) : Prop :=
  (∀ rest, lexLine m (cs ++ rest) = none) ∨
  ∃ m' put, Outside m' ∧ ∀ rest, lexLine m (cs ++ rest) = (lexLine m' rest).map put

theorem readsPast_nil {m : LexMode} (hm : Outside m) : ReadsPast m [] :=
  .inr ⟨m, id, hm, fun rest => by simp⟩

theorem ReadsPast.append {m : LexMode} {cs ds : List Char} (h : ReadsPast m cs)
    (hds : ∀ m', Outside m' → ReadsPast m' ds) : ReadsPast m (cs ++ ds) := by
  obtain hnone | ⟨m', put, hm', heq⟩ := h
  · exact .inl fun rest => by rw [List.append_assoc, hnone]
  · obtain hnone | ⟨m'', put', hm'', heq'⟩ := hds m' hm'
    · exact .inl fun rest => by rw [List.append_assoc, heq, hnone]; rfl
    · exact .inr ⟨m'', put ∘ put', hm'', fun rest => by rw [List.append_assoc, heq, heq', Option.map_map]⟩

/-- The word that a word character goes on, or begins. -/
def wordWith (c : Char) : LexMode → LexMode
  | .inWord acc => .inWord (c :: acc)
  | .between | .inText _ => .inWord [c]

/-- What one character does outside a text, whether or not a word stands before it. -/
theorem lexLine_cons_of_outside {m : LexMode} (hm : Outside m) (c : Char) (cs : List Char) :
    lexLine m (c :: cs) =
      if c = ';' then some (endWord m [])
      else if c = ' ' ∨ c = '\t' then (lexLine .between cs).map (endWord m)
      else if c = ',' then (lexLine .between cs).map fun ts => endWord m (.comma :: ts)
      else if c = '[' then (lexLine .between cs).map fun ts => endWord m (.openBracket :: ts)
      else if c = ']' then (lexLine .between cs).map fun ts => endWord m (.closeBracket :: ts)
      else if c = '"' then (lexLine (.inText []) cs).map (endWord m)
      else if isWordChar c then lexLine (wordWith c m) cs
      else none := by
  cases m with
  | inText acc => cases hm
  | between | inWord acc => rw [lexLine]; rfl

/-- One character that is no double quote and no `;`. -/
theorem readsPast_singleton {m : LexMode} (hm : Outside m) {c : Char} (hquote : c ≠ '"') (hcomment : c ≠ ';') :
    ReadsPast m [c] := by
  have hcons := lexLine_cons_of_outside hm c
  simp only [if_neg hquote, if_neg hcomment] at hcons
  split_ifs at hcons
  · exact .inr ⟨.between, endWord m, trivial, hcons⟩
  · exact .inr ⟨.between, fun ts => endWord m (.comma :: ts), trivial, hcons⟩
  · exact .inr ⟨.between, fun ts => endWord m (.openBracket :: ts), trivial, hcons⟩
  · exact .inr ⟨.between, fun ts => endWord m (.closeBracket :: ts), trivial, hcons⟩
  · have houtside : Outside (wordWith c m) := by cases m <;> trivial
    exact .inr ⟨_, id, houtside, fun rest => (hcons rest).trans Option.map_id'.symm⟩
  · exact .inl hcons

/-- Characters without a double quote or a `;` among them. -/
theorem readsPast_plain {m : LexMode} (hm : Outside m) {cs : List Char} (hquote : '"' ∉ cs) (hcomment : ';' ∉ cs) :
    ReadsPast m cs := by
  induction cs generalizing m with
  | nil => exact readsPast_nil hm
  | cons c cs ih =>
    simp only [List.mem_cons, not_or] at hquote hcomment
    exact (readsPast_singleton hm (Ne.symm hquote.1) (Ne.symm hcomment.1)).append
      fun m' hm' => ih hm' hquote.2 hcomment.2

/-- A quoted text. -/
theorem readsPast_quoted {m : LexMode} (hm : Outside m) {cs : List Char} (h : '"' ∉ cs) :
    ReadsPast m ('"' :: cs ++ ['"']) := by
  refine .inr ⟨.between, fun ts => endWord m (.text cs :: ts), trivial, fun rest => ?_⟩
  have htext : lexLine (.inText []) (cs ++ '"' :: rest) = (lexLine .between rest).map (.text cs :: ·) := lexLine_text h
  simp [lexLine_cons_of_outside hm, htext, Function.comp_def]

/-- Quoted texts with plain characters before each, and plain characters after them. -/
theorem readsPast_quotedTexts {quoted : List (List Char × List Char)} {before : List Char}
    (hquoted : ∀ x ∈ quoted, '"' ∉ x.1 ∧ ';' ∉ x.1 ∧ '"' ∉ x.2) (hquote : '"' ∉ before) (hcomment : ';' ∉ before)
    {m : LexMode} (hm : Outside m) :
    ReadsPast m (quoted.flatMap (fun x => x.1 ++ '"' :: x.2 ++ ['"']) ++ before) := by
  induction quoted generalizing m with
  | nil => exact readsPast_plain hm hquote hcomment
  | cons x quoted ih =>
    obtain ⟨⟨hx1, hx2, hx3⟩, hrest⟩ := List.forall_mem_cons.mp hquoted
    have hx := (readsPast_plain hm hx1 hx2).append fun m' hm' => readsPast_quoted hm' hx3
    rw [List.flatMap_cons, List.append_assoc, List.append_assoc x.1]
    exact hx.append fun m' hm' => ih hrest hm'

/-- Past a piece of a line a minus sign refuses the line, and a `;` ends it (R99). -/
theorem ReadsPast.minus_comment {cs : List Char} (h : ReadsPast .between cs) (after : List Char) :
    lexLine .between (cs ++ '-' :: after) = none ∧
      lexLine .between (cs ++ ';' :: after) = lexLine .between cs := by
  obtain hnone | ⟨m', put, hm', heq⟩ := h
  · exact ⟨hnone _, (hnone _).trans (by simpa using (hnone []).symm)⟩
  · have hend : lexLine m' [] = some (endWord m' []) := by
      cases m' with
      | inText acc => cases hm'
      | between | inWord acc => simp [lexLine]
    have hcs := heq []
    rw [List.append_nil] at hcs
    refine ⟨?_, ?_⟩
    · simp [heq, lexLine_cons_of_outside hm', show isWordChar '-' = false by decide]
    · simp [heq, lexLine_cons_of_outside hm', hcs, hend]

end Sys2Proof.Laws
end

section
/-! The statements about lines of assembly (30_encoding.md, section 4). -/

namespace Sys2Proof.Proofs

open Sys2Proof.Machine Sys2Proof.Laws

/-- Settles O46: the PRINT line is its quoted text (`assembleLine_print`), and a text expands exactly when every code is
at most `0xFF` (`printExpansion_eq_some_iff`). -/
theorem pseudoInstructionsExpand : Obligations.PseudoInstructionsExpand := by
  refine ⟨by decide, by decide, by decide, by decide, fun text => assembleLine_print, fun text hall => ?_,
    fun text hbig => ?_⟩
  · exact printExpansion_eq_some_iff.mpr ⟨hall, rfl⟩
  · obtain ⟨ch, hmem, hch⟩ := hbig
    refine Option.eq_none_iff_forall_ne_some.mpr fun is his => ?_
    exact absurd ((printExpansion_eq_some_iff.mp his).1 ch hmem) (Nat.not_le.mpr hch)

end Sys2Proof.Proofs
end

section
/-! SUPPORT. The lines of the operations with operands (R99). -/

namespace Sys2Proof.Laws

open Sys2Proof.Machine

section
variable {v w : String} {m n : Byte}

/-- `CMD` and `DATA` are words. -/
theorem lexLine_of_modeOperand {cs : List Char} {mode : SendMode} (h : modeOperand cs = some mode) :
    lexLine .between cs = some [.word cs] := by
  unfold modeOperand at h
  split_ifs at h with hcommand hdata
  · subst hcommand; rfl
  · subst hdata; rfl

theorem assembleLine_send {line : String} {cs : List Char} {mode : SendMode}
    (hline : line.toList = "SEND".toList ++ ' ' :: (v.toList ++ ',' :: ' ' :: cs))
    (hv : numberValue v.toList = some m.toNat) (hmode : modeOperand cs = some mode) :
    assembleLine line = some [.send m mode] := by
  obtain ⟨hne, hword⟩ := numberValue_wordChars hv
  refine assembleLine_mnemonic (op := .send) (ts := [.word v.toList, .comma, .word cs]) hline ?_ ?_
  · rw [lexLine_word_then_comma hne hword, lexLine_of_modeOperand hmode]; rfl
  · simp only [operandForm, byteOperand_of hv, hmode]

theorem assembleLine_setCursor (hv : numberValue v.toList = some m.toNat) (hw : numberValue w.toList = some n.toNat) :
    assembleLine ("SET_CURSOR " ++ v ++ ", " ++ w) = some [.setCursor m n] := by
  obtain ⟨hne, hword⟩ := numberValue_wordChars hv
  obtain ⟨hne', hword'⟩ := numberValue_wordChars hw
  refine assembleLine_mnemonic (op := .setCursor) (cs := v.toList ++ ',' :: ' ' :: w.toList)
    (ts := [.word v.toList, .comma, .word w.toList]) (by simp [mnemonicText]) ?_ ?_
  · rw [lexLine_word_then_comma hne hword, lexLine_word_alone hne' hword']; rfl
  · simp only [operandForm, byteOperand_of hv, byteOperand_of hw]

/-- A line of a mnemonic and one numeral. -/
theorem assembleLine_mnemonic_numeral {op : Opcode} {line : String} {i : Instr} {k : Nat}
    (hline : line.toList = (mnemonicText op).toList ++ ' ' :: v.toList) (hv : numberValue v.toList = some k)
    (hform : operandForm op [.word v.toList] = some i) : assembleLine line = some [i] := by
  obtain ⟨hne, hword⟩ := numberValue_wordChars hv
  exact assembleLine_mnemonic hline (lexLine_word_alone hne hword) hform

theorem assembleLine_printChar (hv : numberValue v.toList = some m.toNat) :
    assembleLine ("PRINT_CHAR " ++ v) = some [.printChar m] :=
  assembleLine_mnemonic_numeral (op := .printChar) (by simp [mnemonicText]) hv
    (by simp only [operandForm, byteOperand_of hv]; rfl)

theorem assembleLine_setBacklight (hv : numberValue v.toList = some m.toNat) {bit : Bool}
    (hbit : bitOperand v.toList = some bit) : assembleLine ("SET_BACKLIGHT " ++ v) = some [.setBacklight bit] :=
  assembleLine_mnemonic_numeral (op := .setBacklight) (by simp [mnemonicText]) hv
    (by simp only [operandForm, hbit]; rfl)

theorem assembleLine_createChar (hv : numberValue v.toList = some m.toNat) {ws : List String} {bs : List Byte}
    (hws : ws.map (fun w => numberValue w.toList) = bs.map (fun b => some b.toNat)) (hlen : bs.length ≤ 255) :
    assembleLine ("CREATE_CHAR " ++ v ++ ", [" ++ ", ".intercalate ws ++ "]") = some [.createChar m bs] := by
  obtain ⟨hne, hword⟩ := numberValue_wordChars hv
  have hentries : (ws.map String.toList).map numberValue = bs.map fun b => some b.toNat := by
    rw [List.map_map]
    exact hws
  have hwords : ∀ w ∈ ws.map String.toList, w ≠ [] ∧ ∀ c ∈ w, isWordChar c = true := by
    intro w hw
    have hmem := List.mem_map_of_mem (f := numberValue) hw
    rw [hentries] at hmem
    obtain ⟨b, -, hb⟩ := List.mem_map.mp hmem
    exact numberValue_wordChars hb.symm
  refine assembleLine_mnemonic (op := .createChar)
    (cs := v.toList ++ ',' :: ' ' :: '[' :: ([',', ' '].intercalate (ws.map String.toList) ++ [']']))
    (ts := .word v.toList :: .comma :: .openBracket ::
      (((ws.map String.toList).map Token.word).intersperse .comma ++ [.closeBracket])) (by simp [mnemonicText]) ?_ ?_
  · rw [lexLine_word_then_comma hne hword, lexLine_open, lexLine_entries hwords]
    rfl
  · simp only [operandForm, byteOperand_of hv, charmapOperand_entries hentries, if_pos hlen]

end

end Sys2Proof.Laws
end

section
/-! The statement about what lines of assembly assemble to and what is refused (30_encoding.md, section 4). -/

namespace Sys2Proof.Proofs

open Sys2Proof.Machine Sys2Proof.Laws

/-- Settles O47, clause by clause: what each mnemonic's line assembles to, that whatever is accepted has an encoding and
holds numbers that fit, and how a line is read past its quoted texts (`ReadsPast`). -/
theorem assembledLinesAreWellFormed : Obligations.AssembledLinesAreWellFormed := by
  refine ⟨?nullary, ?operands, ?charmap, fun _ _ => wellFormed_of_parseLine, ?numbers, ?fits, ?bit, ?entries, ?past⟩
  case nullary =>
    intro name i hrow
    exact assembleLine_of_spellsNullary (List.all_eq_true.mp (by decide) _ hrow)
  case operands =>
    intro v w m n hv hw
    refine ⟨?command, ?data, assembleLine_setCursor hv hw, assembleLine_printChar hv, ?off, ?on⟩
    case command => exact assembleLine_send (cs := "CMD".toList) (by simp) hv rfl
    case data => exact assembleLine_send (cs := "DATA".toList) (by simp) hv rfl
    case off => rintro rfl; exact assembleLine_setBacklight hv (bitOperand_of_numberValue hv)
    case on => rintro rfl; exact assembleLine_setBacklight hv (bitOperand_of_numberValue hv)
  case charmap => exact fun v ws l bs hv => assembleLine_createChar hv
  case numbers => exact fun cs n hn => ⟨byteOperand_of_numberValue hn, bitOperand_of_numberValue hn⟩
  case fits => exact fun m ts is h w n hw hn => le_of_parseLine h hw hn
  case bit =>
    intro w n hn hgt
    have hbit : bitOperand w = none := by
      rw [bitOperand_of_numberValue hn, if_neg (by omega), if_neg (by omega)]
    refine (parseLine_mnemonic .setBacklight [.word w]).trans ?_
    simp only [operandForm, hbit]
    rfl
  case entries =>
    intro l ws hlen
    refine Option.eq_none_iff_forall_ne_some.mpr fun i hi => ?_
    obtain ⟨_, _, _, _, h, -⟩ | ⟨_, _, _, _, h, -⟩ | ⟨_, _, h, -⟩ | ⟨_, _, h, -⟩ |
      ⟨_, es, _, bs, -, hts, -, hbs, hle, -⟩ | ⟨h, -⟩ := operandForm_cases hi
    case inr.inr.inr.inr.inl =>
      cases hts
      rw [length_of_charmapOperand hbs] at hle
      omega
    all_goals cases h
  case past =>
    intro quoted before after hquoted hquote hcomment
    have hpast := readsPast_quotedTexts hquoted hquote hcomment (m := .between) trivial
    obtain ⟨hminus, hsemicolon⟩ := hpast.minus_comment after
    simp only [assembleLine_eq_bind, String.toList_ofList, hminus, hsemicolon]
    simp

end Sys2Proof.Proofs
end
